-- ==== Sys2Proof/Config.lean ====
section
/-!
DEFINITION. Config: the parameters of the block (spec/00_scope.md R6, R7) and the quantities derived from them.
-/

namespace Sys2Proof

/-- The number of binary digits of `m` when `fuel ≥ m`: the least `k` with `m < 2 ^ k`. -/
def bitLength : Nat → Nat → Nat
  | 0, _ => 0
  | fuel + 1, m => if m = 0 then 0 else bitLength fuel (m / 2) + 1

/-- The four free parameters of R6: capacity `N`, sample width `W`, gain `G` and fraction bits `F`
(`NCH = 2` is fixed, R7, and shows as the two arrays of `Memory`). -/
structure Params where
  /-- `N`, the capacity of each circular sequence. -/
  n : Nat
  /-- `W`, the bits of one raw sample. -/
  w : Nat
  /-- `G`, the calibration gain in degrees Celsius. -/
  g : Nat
  /-- `F`, the fraction bits of the temperature result. -/
  f : Nat
deriving DecidableEq, Repr

/-- `LN`, the bits of the cursor: `ceil (log2 N)`, 0 when `N = 1` (R6). -/
abbrev Params.ln (p : Params) : Nat := bitLength (p.n - 1) (p.n - 1)

/-- `GW`, the least `k` with `G < 2 ^ k` (R6). -/
abbrev Params.gw (p : Params) : Nat := bitLength p.g p.g

/-- `TW`, the bits of every host response value (R6, R143). -/
abbrev Params.tw (p : Params) : Nat := p.gw + p.f + p.w + p.ln + 1

/-- `TMIN`, the divide-by-zero sentinel `-2 ^ (TW - 1)` (R6). -/
def Params.tmin (p : Params) : Int := -(2 ^ (p.tw - 1) : Nat)

/-- `G * 2 ^ F`, the scale of the calibration (R141). -/
def Params.scale (p : Params) : Nat := p.g * 2 ^ p.f

/-- R7 and the constraint `W >= 1` of R6: `1 <= N <= 2 ^ W`, `TW >= 8 + LN`. -/
def Params.legal (p : Params) : Bool :=
  decide (1 ≤ p.n) && decide (p.n ≤ 2 ^ p.w) && decide (1 ≤ p.w) && decide (8 + p.ln ≤ p.tw)

/-- A configuration of the block: parameters that meet R7. "A configuration that breaks either constraint
is not an ASB and a model refuses it": one that breaks them cannot be built. -/
structure Config extends Params where
  ok : toParams.legal = true
deriving DecidableEq, Repr

/-- `N ≥ 1`, from R7. -/
theorem Config.n_pos (c : Config) : 0 < c.n := by
  have h := c.ok
  simp only [Params.legal, Bool.and_eq_true, decide_eq_true_eq] at h
  omega

/-- ASB-1, "the record with every default" (R2, R6). -/
abbrev Config.asb1 : Config := ⟨⟨8, 12, 250, 8⟩, by decide⟩

end Sys2Proof
end

