-- ==== Sys2Proof/Word.lean ====
section
/-!
DEFINITION. Word: the word types of ASB-1 (spec/30_encoding.md R70, R78).
-/

namespace Sys2Proof

/-- The 4-bit `op` field of an operation word (R70). -/
abbrev OpCode := BitVec 4

/-- The `W`-bit `data` field of an ASB-1 operation word (R70, R71). -/
abbrev Data := BitVec Config.asb1.w

/-- The `W + 4`-bit operation word of ASB-1 (R70). -/
abbrev OpWord := BitVec 16

end Sys2Proof
end

