-- ==== Sys2Proof/Syntax.lean ====
section
/-!
DEFINITION. Syntax: the operations of the block, one constructor per row of spec/opcode_table.json (spec/30_encoding.md R72).
-/

namespace Sys2Proof

/-- The sixteen operations of R72. The two reserved codes are constructors too: they have an answer (R74). -/
inductive Instr where
  /-- 0x0 `NOP`, host port (R91). -/
  | nop
  /-- 0x1 `INIT`, host port (R92). -/
  | init
  /-- 0x2 `START_SINGLE`, host port (R93). -/
  | startSingle
  /-- 0x3 `START_CONT`, host port (R94). -/
  | startCont
  /-- 0x4 `STOP`, host port (R95). -/
  | stop
  /-- 0x5 `IS_RUNNING`, host port (R131). -/
  | isRunning
  /-- 0x6 `IS_READY`, host port (R132). -/
  | isReady
  /-- 0x7 `GET_SINGLE`, host port (R145). -/
  | getSingle
  /-- 0x8 `GET_AVG`, host port (R146). -/
  | getAvg
  /-- 0x9 `RD_STATUS`, host port (R133). -/
  | rdStatus
  /-- 0xA `RD_SENS idx`, host port (R134). -/
  | rdSens (idx : Data)
  /-- 0xB `RD_REF idx`, host port (R135). -/
  | rdRef (idx : Data)
  /-- 0xC `CONV_DONE v`, event port (R110 to R112). -/
  | convDone (v : Data)
  /-- 0xD `CONV_ERR`, event port (R113). -/
  | convErr
  /-- 0xE, reserved: answered as illegal (R74). -/
  | reservedE
  /-- 0xF, reserved: answered as illegal (R74). -/
  | reservedF
deriving DecidableEq, Repr


end Sys2Proof
end

