-- ==== Sys2Proof/WellFormed.lean ====
section
/-!
DEFINITION. WellFormed: what the spec accepts as a configuration (spec/00_scope.md R7) and as an operand (spec/30_encoding.md R80, R82).
-/

namespace Sys2Proof

/-- R7, U16: a configuration outside the constraints is refused. -/
def Params.config? (p : Params) : Option Config :=
  if h : p.legal = true then some ⟨p, h⟩ else none

/-- R80: the assembler "refuses an operand that does not fit (`>= 2^W`)". -/
def operandFits (c : Config) (operand : Nat) : Bool := decide (operand < 2 ^ c.w)

/-- R82 speaks of "every operation `o` whose operand fits". The operand of an `Instr` is `W` bits wide by its
type, and an index `>= N` is a legal word (R80), so every `Instr` passes. -/
def Instr.wellFormed : Instr → Bool
  | .rdSens idx => operandFits Config.asb1 idx.toNat
  | .rdRef idx => operandFits Config.asb1 idx.toNat
  | .convDone v => operandFits Config.asb1 v.toNat
  | .nop => true
  | .init => true
  | .startSingle => true
  | .startCont => true
  | .stop => true
  | .isRunning => true
  | .isReady => true
  | .getSingle => true
  | .getAvg => true
  | .rdStatus => true
  | .convErr => true
  | .reservedE => true
  | .reservedF => true

end Sys2Proof
end

