-- ==== Sys2Proof/Decode.lean ====
section
/-!
DEFINITION. Decode: operation words to operations and back (spec/30_encoding.md R70 to R77, R82), and the words of the opcode table.
-/

namespace Sys2Proof

/-- The ports of R73; the reserved codes belong to none (R72). -/
inductive Port where
  | host
  | event
  | reserved
deriving DecidableEq, Repr

/-- `op = word[W+3 : W]` (R70). -/
def opField (w : OpWord) : OpCode := w.extractLsb' 12 4

/-- `data = word[W-1 : 0]` (R70). -/
def dataField (w : OpWord) : Data := w.extractLsb' 0 12

/-- The operation word `op ++ data` (R70). -/
def joinWord (op : OpCode) (data : Data) : OpWord := op ++ data

/-- The operation map of R72. `data` is used as encoded (R77), or ignored (R75). Total (R82): the last arm is
code 0xF, the only one left. -/
def decodeFields (op : OpCode) (data : Data) : Instr :=
  match op.toNat with
  | 0x0 => .nop
  | 0x1 => .init
  | 0x2 => .startSingle
  | 0x3 => .startCont
  | 0x4 => .stop
  | 0x5 => .isRunning
  | 0x6 => .isReady
  | 0x7 => .getSingle
  | 0x8 => .getAvg
  | 0x9 => .rdStatus
  | 0xA => .rdSens data
  | 0xB => .rdRef data
  | 0xC => .convDone data
  | 0xD => .convErr
  | 0xE => .reservedE
  | _ => .reservedF

/-- `decode` of R82, total on every operation word. -/
def decode (w : OpWord) : Instr := decodeFields (opField w) (dataField w)

/-- The `op` code of an operation (R72). -/
def Instr.op : Instr → OpCode
  | .nop => 0x0
  | .init => 0x1
  | .startSingle => 0x2
  | .startCont => 0x3
  | .stop => 0x4
  | .isRunning => 0x5
  | .isReady => 0x6
  | .getSingle => 0x7
  | .getAvg => 0x8
  | .rdStatus => 0x9
  | .rdSens _ => 0xA
  | .rdRef _ => 0xB
  | .convDone _ => 0xC
  | .convErr => 0xD
  | .reservedE => 0xE
  | .reservedF => 0xF

/-- The operand of an operation, 0 where it has none: "The event-script assembler writes 0 there" (R75). -/
def Instr.data : Instr → Data
  | .rdSens idx => idx
  | .rdRef idx => idx
  | .convDone v => v
  | .nop => 0
  | .init => 0
  | .startSingle => 0
  | .startCont => 0
  | .stop => 0
  | .isRunning => 0
  | .isReady => 0
  | .getSingle => 0
  | .getAvg => 0
  | .rdStatus => 0
  | .convErr => 0
  | .reservedE => 0
  | .reservedF => 0

/-- The word of an operation, `data = 0` where the operand is none (R72, R80). -/
def encode (i : Instr) : OpWord := joinWord i.op i.data

/-- Whether an `op` code has an operand in R72: `RD_SENS`, `RD_REF`, `CONV_DONE`. -/
def hasOperand (op : OpCode) : Bool := op == 0xA || op == 0xB || op == 0xC

/-- The port of an operation (R73). -/
def Instr.port (i : Instr) : Port :=
  if i.op.toNat < 0xC then .host else if i.op.toNat < 0xE then .event else .reserved

/-- The operation the decoder reads from a row of spec/opcode_table.json: one word of 16 bits (R79: one length).
A row of fewer bits has its upper bits 0; there are no longer words. -/
def decodeTableWord (nbits w : Nat) : Option Instr :=
  if nbits ≤ 16 then some (decode (BitVec.ofNat 16 (w % 2 ^ nbits))) else none

end Sys2Proof
end

