-- ==== Sys2Proof/Machine/State.lean ====
section
/-!
DEFINITION. State: the state record of spec/10_state.md R20, the outputs of the last step (spec/30_encoding.md R78), the pins still to be
presented (spec/60_exceptions.md R161), and the reset values (R39).
-/

namespace Sys2Proof.Machine

/-- The two address spaces of R50. -/
inductive Space where
  | sens
  | ref
deriving DecidableEq, Repr

/-- The sample buffer (R32, R50): two arrays of `N` words of `W` bits, "word-indexed", never laid out in bytes
(R51). A fixed-length vector has one representation for each content, so it is its own canonical form. -/
structure Memory (c : Config) where
  sens : Vector (BitVec c.w) c.n
  ref : Vector (BitVec c.w) c.n
deriving DecidableEq, Repr

/-- The form of a memory (R32): each sequence has exactly `N` words. The types enforce it. -/
abbrev Memory.wf {c : Config} (m : Memory c) : Prop := m.sens.toList.length = c.n ∧ m.ref.toList.length = c.n

/-- "The complete state of the block is the record below and nothing else" (R20). -/
structure Block (c : Config) where
  /-- R23: a conversion round is in flight. -/
  running : Bool
  /-- R24: the ready flag. -/
  ready : Bool
  /-- R25: continuous mode is requested. -/
  cont : Bool
  /-- R26: which channel the next `CONV_DONE` carries: 0 sensor, 1 reference. -/
  phase : Bool
  /-- R28: the cursor has wrapped since continuous mode was freshly entered. -/
  wrapped : Bool
  /-- R29: the terminal conversion-error fault. -/
  fault : Bool
  /-- R30: the write cursor, "value always in `0 .. N-1`". -/
  cur : Fin c.n
  /-- R31: the sensor value of the round in flight. -/
  hold : BitVec c.w
  /-- R32: `sens` and `ref`. -/
  mem : Memory c
deriving DecidableEq, Repr

/-- The five-field output record of one step (R78). -/
structure Outputs (c : Config) where
  /-- `rsp.val`, `TW` bits. -/
  val : BitVec c.tw
  /-- `rsp.dz`. -/
  dz : Bool
  /-- `rsp.ill`. -/
  ill : Bool
  /-- `arm`, a pulse to the converter. -/
  arm : Bool
  /-- `abort`, a pulse to the converter. -/
  abort : Bool
deriving DecidableEq, Repr

/-- The input pins during one clock cycle (R161), without `clk`. -/
structure Cycle (c : Config) where
  rst : Bool
  evValid : Bool
  evErr : Bool
  evData : BitVec c.w
  cmdValid : Bool
  cmdOp : OpCode
  cmdData : BitVec c.w
deriving DecidableEq, Repr

/-- The machine: the block of ASB-1 (R2), the outputs of its last step, and the harness's inputs.
DESIGN CHOICE, log entries 2 and 4: `out` and `inputs` stand in the state so that one deterministic step has a place to
answer and something to react to. -/
structure State where
  /-- R20. -/
  block : Block Config.asb1
  /-- The output record of the last step (R78); what the pins show after it (R161). -/
  out : Outputs Config.asb1
  /-- The clock cycles not yet presented, first one first: the event script of R21, R80. Any list is legal (R174, R175, U8). -/
  inputs : List (Cycle Config.asb1)
deriving DecidableEq, Repr

/-- No step of the machine stops with a fault: R10, the step function is "total on every `Op`". The block's own fault is a
state of the block (`Block.fault`, R163), after which the machine goes on. DEDUCED, log entry 11; nobody raises it, safe. -/
inductive Fault where
deriving DecidableEq, Repr

/-- Why a step can be refused. -/
inductive Refusal where
  /-- Raised by an arm of `exec` whose operation has no meaning yet; no arm does. Safe. -/
  | notModelled (mnemonic : String)
deriving DecidableEq, Repr

/-- Every output 0: "every output a rule does not name is 0 in that step" (R9, R78). -/
def Outputs.zero {c : Config} : Outputs c := { val := 0, dz := false, ill := false, arm := false, abort := false }

/-- "values zeroed" (R39, R201). -/
def Memory.zero {c : Config} : Memory c := { sens := .replicate c.n 0, ref := .replicate c.n 0 }

/-- The reset values of every field of the block (R39, R201). -/
def Block.reset (c : Config) : Block c :=
  { running := false, ready := false, cont := false, phase := false, wrapped := false, fault := false
    cur := ⟨0, c.n_pos⟩, hold := 0, mem := Memory.zero }

/-- The machine right after reset (R39, R201), with nothing presented (DESIGN CHOICE, log entry 2). -/
def State.reset : State := { block := Block.reset Config.asb1, out := Outputs.zero, inputs := [] }

end Sys2Proof.Machine
end

