-- ==== Sys2Proof/Machine/Ops.lean ====
section
/-!
DEFINITION. Ops: the named operations over the sample buffer, the control fields, the outputs and the fault state, for every configuration.
-/

namespace Sys2Proof.Machine

variable {c : Config}

/-! ### The sample buffer (spec/20_memory.md R50 to R54) -/

/-- One of the two arrays (R50). -/
def Memory.array (m : Memory c) : Space → Vector (BitVec c.w) c.n
  | .sens => m.sens
  | .ref => m.ref

/-- `MemRead((S, i), 1)` (R9): the word at index `i` of space `S`. -/
def Memory.read (m : Memory c) (sp : Space) (i : Fin c.n) : BitVec c.w := (m.array sp)[i]

/-- `MemWrite((S, i), 1, v)` (R9). -/
def Memory.write (m : Memory c) (sp : Space) (i : Fin c.n) (v : BitVec c.w) : Memory c :=
  match sp with
  | .sens => { m with sens := m.sens.set i v i.isLt }
  | .ref => { m with ref := m.ref.set i v i.isLt }

/-- Both words of a pair, at one index, in one step (R33, R55). -/
def Memory.writePair (m : Memory c) (i : Fin c.n) (s r : BitVec c.w) : Memory c :=
  (m.write .sens i s).write .ref i r

/-- The sum of all `N` words of one space, read as unsigned integers (R146). -/
def Memory.sum (m : Memory c) (sp : Space) : Nat := ((m.array sp).toList.map BitVec.toNat).sum

/-! ### Outputs of a step (spec/30_encoding.md R78) -/

/-- The answer of a host read, nothing else set. -/
def Outputs.value (v : BitVec c.tw) : Outputs c := { (Outputs.zero : Outputs c) with val := v }

/-- The illegal answer of R74, R134: `rsp.ill = 1`, `rsp.val = 0`. -/
def Outputs.illegal : Outputs c := { (Outputs.zero : Outputs c) with ill := true }

/-- `arm <- 1` when `b`. -/
def Outputs.armed (b : Bool) : Outputs c := { (Outputs.zero : Outputs c) with arm := b }

/-- `abort <- b`. -/
def Outputs.aborted (b : Bool) : Outputs c := { (Outputs.zero : Outputs c) with abort := b }

/-! ### Control fields -/

/-- The fault gate of R90: with `fault = 1` no change and all outputs 0. -/
def Block.gated (b : Block c) (r : Block c × Outputs c) : Block c × Outputs c :=
  if b.fault then (b, Outputs.zero) else r

/-- "if running = 0: running <- 1 ; phase <- 0 ; arm <- 1", else nothing (R93, R94, R96). -/
def Block.beginRound (b : Block c) : Block c × Outputs c :=
  if b.running then (b, Outputs.zero) else ({ b with running := true, phase := false }, Outputs.armed true)

/-- No round in flight and no mode requested: the part `STOP`, `INIT` and fault entry share (R92, R95, R163). -/
def Block.halt (b : Block c) : Block c := { b with running := false, cont := false, phase := false }

/-! ### Taking the exception, and the way back -/

/-- Fault entry (R163): `fault <- 1 ; running <- 0 ; cont <- 0 ; phase <- 0 ; ready <- 0`; nothing is saved, no pulse. -/
def Block.enterFault (b : Block c) : Block c := { b.halt with fault := true, ready := false }

/-- The reset step (R200): every field its reset value, every output 0. "There is no return operation" from the fault;
`fault` "is cleared only by the reset pin" (R165). The inputs are not the block's and stay (log entry 8). -/
def State.resetStep (s : State) : State := { s with block := Block.reset Config.asb1, out := Outputs.zero }

/-! ### One step of the machine -/

/-- The state after an operation: the block and the outputs it gives, together (R55, R78). -/
def State.complete (s : State) (r : Block Config.asb1 × Outputs Config.asb1) : State :=
  { s with block := r.1, out := r.2 }

/-- The illegal answer on a host port or of a reserved code: no state change (R74). -/
def State.answerIllegal (s : State) : State := s.complete (s.block, Outputs.illegal)

/-- A cycle with nothing presented: "`cmd_valid = 0` is no operation (not even `NOP`)" (R79); pulses and answers last
one step (R161, R78). DESIGN CHOICE, log entry 3. -/
def State.idle (s : State) : State := s.complete (s.block, Outputs.zero)

end Sys2Proof.Machine
end

