-- ==== Sys2Proof/Machine/Operands.lean ====
section
/-!
DEFINITION. Operands: the operand and addressing forms of spec/20_memory.md R54 and spec/30_encoding.md R77.
-/

namespace Sys2Proof.Machine

variable {c : Config}

/-- Direct: `idx = u(data)`, legal when `< N` (R77, R134); an index `>= N` reaches no memory (R53). -/
def directIndex (data : BitVec c.w) : Option (Fin c.n) :=
  if h : data.toNat < c.n then some ⟨data.toNat, h⟩ else none

/-- Cursor-indexed, post-increment modulo `N`: `(cur + 1) mod N` (R30, R54). -/
def nextIndex (cur : Fin c.n) : Fin c.n := ⟨(cur.val + 1) % c.n, Nat.mod_lt _ c.n_pos⟩

/-- Cursor-relative: `(cur + N - 1) mod N`, the source's "cursor−1 mod N" (R54, R145). -/
def lastIndex (cur : Fin c.n) : Fin c.n := ⟨(cur.val + c.n - 1) % c.n, Nat.mod_lt _ c.n_pos⟩

/-- The index where a fresh continuous entry, `INIT` and reset put the cursor (R30). -/
def firstIndex : Fin c.n := ⟨0, c.n_pos⟩

/-- The answer of a direct read of one space (R134, R135): the word, zero-extended, or the illegal answer. -/
def Block.directRead (b : Block c) (sp : Space) (data : BitVec c.w) : Outputs c :=
  match directIndex data with
  | some i => Outputs.value ((b.mem.read sp i).setWidth c.tw)
  | none => Outputs.illegal

end Sys2Proof.Machine
end

