-- ==== Sys2Proof/Machine/Flags.lean ====
section
/-!
DEFINITION. Flags: the derived views of the control fields (spec/10_state.md R27, R35, R36; spec/41_adc_events.md R114) and the flag computations.
-/

namespace Sys2Proof.Machine

variable {c : Config}

/-- The source's `AcquisitionState` (R27). -/
inductive Acq where
  | idle
  | conversionInFlight
  | resultReady
deriving DecidableEq, Repr

/-- `acq`, derived from `ready` and `running`, `ready` first (R27). -/
def Block.acq (b : Block c) : Acq :=
  if b.ready then .resultReady else if b.running then .conversionInFlight else .idle

/-- The numbering of R27: 0 Idle, 1 ConversionInFlight, 2 ResultReady, 3 never. -/
def Acq.bits : Acq → BitVec 2
  | .idle => 0
  | .conversionInFlight => 1
  | .resultReady => 2

/-- The packed control fields of R35, R133: `cur ++ acq ++ fault ++ wrapped ++ phase ++ cont ++ ready ++ running`. -/
def Block.status (b : Block c) : BitVec c.tw :=
  (BitVec.ofNat c.ln b.cur.val ++ b.acq.bits ++ BitVec.ofBool b.fault ++ BitVec.ofBool b.wrapped ++
    BitVec.ofBool b.phase ++ BitVec.ofBool b.cont ++ BitVec.ofBool b.ready ++ BitVec.ofBool b.running).setWidth c.tw

/-- `zext_TW` of one flag (R131, R132). -/
def flagWord (c : Config) (f : Bool) : BitVec c.tw := (BitVec.ofBool f).setWidth c.tw

/-- `wrapped' = 1 if (wrapped = 1 or cur' = 0)` (R112), where `next` is `cur'`. -/
def Block.wrappedAfter (b : Block c) (next : Fin c.n) : Bool := b.wrapped || next.val == 0

/-- The level output `running_o` (R36). -/
def State.runningO (s : State) : Bool := s.block.running

/-- The level output `ready_o` (R36). -/
def State.readyO (s : State) : Bool := s.block.ready

/-- The level output `fault_o` (R36). -/
def State.faultO (s : State) : Bool := s.block.fault

/-- The control states of R114. -/
inductive Control where
  | IDLE
  | S0
  | S1
  | C0
  | C1
  | FAULT
deriving DecidableEq, Repr

/-- The name of the triple (`running`, `cont`, `phase`) with `fault`; `none` on the ten combinations R114 calls unreachable. -/
def Block.control (b : Block c) : Option Control :=
  match b.fault, b.running, b.cont, b.phase with
  | true, false, false, false => some .FAULT
  | false, false, false, false => some .IDLE
  | false, true, false, false => some .S0
  | false, true, false, true => some .S1
  | false, true, true, false => some .C0
  | false, true, true, true => some .C1
  | _, _, _, _ => none

end Sys2Proof.Machine
end

