-- ==== Sys2Proof/Machine/Control.lean ====
section
/-!
DEFINITION. Control: `NOP`, `INIT`, `START_SINGLE`, `START_CONT`, `STOP` (spec/40_control_commands.md R90 to R95).
-/

namespace Sys2Proof.Machine

variable {c : Config}

/-- R91: nothing, in every state; all outputs 0. -/
def Block.nop (b : Block c) : Block c × Outputs c := (b, Outputs.zero)

/-- R92, gated by R90: every field but `fault` to 0, the buffer zeroed, `abort <- running`. -/
def Block.init (b : Block c) : Block c × Outputs c :=
  b.gated
    ({ b.halt with ready := false, wrapped := false, cur := firstIndex, hold := 0, mem := Memory.zero },
      Outputs.aborted b.running)

/-- R93, gated by R90: `ready <- 0 ; cont <- 0`, and a round begins if none is in flight. -/
def Block.startSingle (b : Block c) : Block c × Outputs c :=
  b.gated (Block.beginRound { b with ready := false, cont := false })

/-- R94, gated by R90: a fresh entry (`cont = 0`) resets cursor, `wrapped` and `ready` and begins a round if none is
in flight; a repeated one does nothing. -/
def Block.startCont (b : Block c) : Block c × Outputs c :=
  b.gated
    (if b.cont then (b, Outputs.zero)
    else Block.beginRound { b with cont := true, cur := firstIndex, wrapped := false, ready := false })

/-- R95, gated by R90: `abort <- running ; running <- 0 ; cont <- 0 ; phase <- 0`. -/
def Block.stop (b : Block c) : Block c × Outputs c := b.gated (b.halt, Outputs.aborted b.running)

/-- `NOP` (R91). -/
def execNop (s : State) : Host.Outcome State Fault Refusal := .next (s.complete s.block.nop)

/-- `INIT` (R92). -/
def execInit (s : State) : Host.Outcome State Fault Refusal := .next (s.complete s.block.init)

/-- `START_SINGLE` (R93). -/
def execStartSingle (s : State) : Host.Outcome State Fault Refusal := .next (s.complete s.block.startSingle)

/-- `START_CONT` (R94). -/
def execStartCont (s : State) : Host.Outcome State Fault Refusal := .next (s.complete s.block.startCont)

/-- `STOP` (R95). -/
def execStop (s : State) : Host.Outcome State Fault Refusal := .next (s.complete s.block.stop)

end Sys2Proof.Machine
end

