-- ==== Sys2Proof/Machine/Events.lean ====
section
/-!
DEFINITION. Events: `CONV_DONE` and `CONV_ERR` (spec/41_adc_events.md R110 to R113).
-/

namespace Sys2Proof.Machine

variable {c : Config}

/-- R111: the first channel of a round: `hold <- v ; phase <- 1`. -/
def Block.latchSensor (b : Block c) (v : BitVec c.w) : Block c := { b with hold := v, phase := true }

/-- What both modes of R112 do: the pair `(hold, v)` at `cur`, the cursor advanced, `phase <- 0`. -/
def Block.storePair (b : Block c) (v : BitVec c.w) : Block c :=
  { b with mem := b.mem.writePair b.cur b.hold v, cur := nextIndex b.cur, phase := false }

/-- R112: the last channel of a round. In continuous mode `wrapped` and `ready` may be set and the round re-arms; in
single mode `ready <- 1 ; running <- 0`. -/
def Block.finishRound (b : Block c) (v : BitVec c.w) : Block c × Outputs c :=
  let wrapped' := b.wrappedAfter (nextIndex b.cur)
  if b.cont then
    ({ b.storePair v with wrapped := wrapped', ready := b.ready || wrapped' }, Outputs.armed true)
  else
    ({ b.storePair v with ready := true, running := false }, Outputs.zero)

/-- `CONV_DONE v`: the gates of R110 (frozen by the fault, dropped when no round is in flight), then R111 or R112 by `phase`. -/
def Block.convDone (b : Block c) (v : BitVec c.w) : Block c × Outputs c :=
  b.gated
    (if b.running = false then (b, Outputs.zero)
    else if b.phase then b.finishRound v
    else (b.latchSensor v, Outputs.zero))

/-- `CONV_ERR`: fault entry when `fault = 0`, absorbed when `fault = 1`; no pulse (R113, R163, R165). -/
def Block.convErr (b : Block c) : Block c × Outputs c := b.gated (b.enterFault, Outputs.zero)

/-- `CONV_DONE` (R110 to R112). -/
def execConvDone (v : Data) (s : State) : Host.Outcome State Fault Refusal := .next (s.complete (s.block.convDone v))

/-- `CONV_ERR` (R113). -/
def execConvErr (s : State) : Host.Outcome State Fault Refusal := .next (s.complete s.block.convErr)

end Sys2Proof.Machine
end

