-- ==== Sys2Proof/Machine/Calib.lean ====
section
/-!
DEFINITION. Calib: the calibration function of spec/43_calibration.md R141, R144, R147.
-/

namespace Sys2Proof.Machine

/-- The result of `calib`: `dz` and the signed integer `val` (R141). -/
structure CalibResult where
  dz : Bool
  val : Int
deriving DecidableEq, Repr

/-- `floor (p / q)` for `q > 0`, "the greatest integer `<= p/q`" (R9). -/
def floorDiv (p q : Int) : Int := Int.fdiv p q

/-- R141: exact integers, one rounding toward minus infinity; a zero reference gives the sentinel `TMIN` (R144). -/
def calib (c : Config) (a b : Nat) : CalibResult :=
  if b = 0 then { dz := true, val := c.tmin }
  else { dz := false, val := floorDiv (c.scale * ((a : Int) - b)) b }

/-- `rsp.val <- tc_TW(r.val) ; rsp.dz <- r.dz` (R145, R146). -/
def CalibResult.outputs {c : Config} (r : CalibResult) : Outputs c :=
  { (Outputs.zero : Outputs c) with val := BitVec.ofInt c.tw r.val, dz := r.dz }

end Sys2Proof.Machine
end

