-- ==== Sys2Proof/Machine/Getters.lean ====
section
/-!
DEFINITION. Getters: `GET_SINGLE` and `GET_AVG` (spec/43_calibration.md R145, R146).
-/

namespace Sys2Proof.Machine

variable {c : Config}

/-- The calibration of the most recently written pair, at `(cur - 1) mod N` (R145). -/
def Block.lastReading (b : Block c) : CalibResult :=
  calib c (b.mem.read .sens (lastIndex b.cur)).toNat (b.mem.read .ref (lastIndex b.cur)).toNat

/-- The calibration of the two sums over the whole buffer (R146). -/
def Block.averageReading (b : Block c) : CalibResult := calib c (b.mem.sum .sens) (b.mem.sum .ref)

/-- "if fault = 0: ready <- 0" (R145). -/
def Block.consume (b : Block c) : Block c := if b.fault then b else { b with ready := false }

/-- R145: answers the last reading in every state, and consumes `ready`. -/
def Block.getSingle (b : Block c) : Block c × Outputs c := (b.consume, b.lastReading.outputs)

/-- R146: answers the average reading; no state changes. -/
def Block.getAvg (b : Block c) : Block c × Outputs c := (b, b.averageReading.outputs)

/-- `GET_SINGLE` (R145). -/
def execGetSingle (s : State) : Host.Outcome State Fault Refusal := .next (s.complete s.block.getSingle)

/-- `GET_AVG` (R146). -/
def execGetAvg (s : State) : Host.Outcome State Fault Refusal := .next (s.complete s.block.getAvg)

end Sys2Proof.Machine
end

