-- ==== Sys2Proof/Machine/Reads.lean ====
section
/-!
DEFINITION. Reads: `IS_RUNNING`, `IS_READY`, `RD_STATUS`, `RD_SENS`, `RD_REF` (spec/42_status_reads.md R130 to R135). None changes the block or
is gated by `fault` (R130).
-/

namespace Sys2Proof.Machine

variable {c : Config}

/-- R131: `rsp.val <- zext_TW(running)`. -/
def Block.isRunning (b : Block c) : Block c × Outputs c := (b, Outputs.value (flagWord c b.running))

/-- R132: `rsp.val <- zext_TW(ready)`. -/
def Block.isReady (b : Block c) : Block c × Outputs c := (b, Outputs.value (flagWord c b.ready))

/-- R133: the status word of R35. -/
def Block.rdStatus (b : Block c) : Block c × Outputs c := (b, Outputs.value b.status)

/-- R134: one word of `sens`, or the illegal answer. -/
def Block.rdSens (b : Block c) (idx : BitVec c.w) : Block c × Outputs c := (b, b.directRead .sens idx)

/-- R135: one word of `ref`, or the illegal answer. -/
def Block.rdRef (b : Block c) (idx : BitVec c.w) : Block c × Outputs c := (b, b.directRead .ref idx)

/-- `IS_RUNNING` (R131). -/
def execIsRunning (s : State) : Host.Outcome State Fault Refusal := .next (s.complete s.block.isRunning)

/-- `IS_READY` (R132). -/
def execIsReady (s : State) : Host.Outcome State Fault Refusal := .next (s.complete s.block.isReady)

/-- `RD_STATUS` (R133). -/
def execRdStatus (s : State) : Host.Outcome State Fault Refusal := .next (s.complete s.block.rdStatus)

/-- `RD_SENS` (R134). -/
def execRdSens (idx : Data) (s : State) : Host.Outcome State Fault Refusal := .next (s.complete (s.block.rdSens idx))

/-- `RD_REF` (R135). -/
def execRdRef (idx : Data) (s : State) : Host.Outcome State Fault Refusal := .next (s.complete (s.block.rdRef idx))

end Sys2Proof.Machine
end

