-- ==== Sys2Proof/Machine/Reserved.lean ====
section
/-!
DEFINITION. Reserved: the reserved codes 0xE and 0xF (spec/30_encoding.md R74): illegal, answered, not a fault.
-/

namespace Sys2Proof.Machine

/-- Op code 0xE (R74): no state change, `rsp.ill = 1`. -/
def execReservedE (s : State) : Host.Outcome State Fault Refusal := .next s.answerIllegal

/-- Op code 0xF (R74): no state change, `rsp.ill = 1`. -/
def execReservedF (s : State) : Host.Outcome State Fault Refusal := .next s.answerIllegal

end Sys2Proof.Machine
end

