-- ==== Sys2Proof/Machine/Dispatch.lean ====
section
/-!
DEFINITION. Dispatch: one arm per operation (spec/30_encoding.md R72).
-/

namespace Sys2Proof.Machine

def exec (i : Instr) (s : State) : Host.Outcome State Fault Refusal :=
  match i with
  | .nop => Sys2Proof.Machine.execNop s
  | .init => Sys2Proof.Machine.execInit s
  | .startSingle => Sys2Proof.Machine.execStartSingle s
  | .startCont => Sys2Proof.Machine.execStartCont s
  | .stop => Sys2Proof.Machine.execStop s
  | .isRunning => Sys2Proof.Machine.execIsRunning s
  | .isReady => Sys2Proof.Machine.execIsReady s
  | .getSingle => Sys2Proof.Machine.execGetSingle s
  | .getAvg => Sys2Proof.Machine.execGetAvg s
  | .rdStatus => Sys2Proof.Machine.execRdStatus s
  | .rdSens idx => Sys2Proof.Machine.execRdSens idx s
  | .rdRef idx => Sys2Proof.Machine.execRdRef idx s
  | .convDone v => Sys2Proof.Machine.execConvDone v s
  | .convErr => Sys2Proof.Machine.execConvErr s
  | .reservedE => Sys2Proof.Machine.execReservedE s
  | .reservedF => Sys2Proof.Machine.execReservedF s

end Sys2Proof.Machine
end

