-- ==== Sys2Proof/Machine/Fetch.lean ====
section
/-!
DEFINITION. Fetch: from the input pins of one clock cycle to the operation of the next step (spec/30_encoding.md R73, R79;
spec/60_exceptions.md R168; spec/70_reset_and_hazards.md R200).
-/

namespace Sys2Proof.Machine

/-- What the next step of the machine is. -/
inductive Presented where
  /-- A reset step (R200). -/
  | reset
  /-- An operation of its own port. -/
  | op (i : Instr)
  /-- An event code on the host port: the illegal answer, "not a converter event" (R73, R74). -/
  | wrongPort
  /-- Nothing is presented (R79). -/
  | idle
deriving DecidableEq, Repr

/-- The event port (R79): `CONV_DONE` with `ev_data` when `ev_err = 0`, `CONV_ERR` when `ev_err = 1`. -/
def eventOp (err : Bool) (data : Data) : Instr := if err then .convErr else .convDone data

/-- The host port (R73, R79): its own operations, the illegal answer for 0xE and 0xF, and for 0xC and 0xD too. -/
def hostOp (op : OpCode) (data : Data) : Presented :=
  if (decodeFields op data).port = .event then .wrongPort else .op (decodeFields op data)

/-- The next step, and the cycles that remain after it. Within one cycle (R168): `rst` first, both ports ignored;
otherwise the event port as one step, then the host port as a second step; the cycle stays at the head with its
event port emptied in between (DESIGN CHOICE, log entry 7). -/
def fetch : List (Cycle Config.asb1) → Presented × List (Cycle Config.asb1)
  | [] => (.idle, [])
  | c :: cs =>
    if c.rst then (.reset, cs)
    else if c.evValid then
      (.op (eventOp c.evErr c.evData), if c.cmdValid then { c with evValid := false } :: cs else cs)
    else if c.cmdValid then (hostOp c.cmdOp c.cmdData, cs)
    else (.idle, cs)

/-- A quiet cycle: every pin 0. -/
def Cycle.quiet {c : Config} : Cycle c :=
  { rst := false, evValid := false, evErr := false, evData := 0, cmdValid := false, cmdOp := 0, cmdData := 0 }

/-- A cycle with `rst = 1`: the script directive `RESET` (R80). -/
def Cycle.resetPulse {c : Config} : Cycle c := { Cycle.quiet with rst := true }

/-- The pins that present an operation word ("the op code alone tells the port", R73; R79): codes 0xC and 0xD on the
event port, all others on the host port; the reserved codes answer alike there (R74; DEDUCED, log entry 5). -/
def Cycle.ofWord (w : OpWord) : Cycle Config.asb1 :=
  if opField w = 0xC then { Cycle.quiet with evValid := true, evErr := false, evData := dataField w }
  else if opField w = 0xD then { Cycle.quiet with evValid := true, evErr := true, evData := dataField w }
  else { Cycle.quiet with cmdValid := true, cmdOp := opField w, cmdData := dataField w }

end Sys2Proof.Machine
end

