-- ==== Sys2Proof/Machine/Step.lean ====
section
/-!
DEFINITION. Step: one step of the machine (spec/00_scope.md R10): a reset step, an operation, or an idle cycle.
-/

namespace Sys2Proof.Machine

/-- The next presented thing is taken off the inputs and performed. -/
def step (s : State) : Host.Outcome State Fault Refusal :=
  match fetch s.inputs with
  | (.reset, rest) => .next { s with inputs := rest }.resetStep
  | (.op i, rest) => exec i { s with inputs := rest }
  | (.wrongPort, rest) => .next { s with inputs := rest }.answerIllegal
  | (.idle, rest) => .next { s with inputs := rest }.idle

/-- `s` with the operation word `w` presented next (log entry 2): there is no program memory (R21, R63); an operation is
presented on the pins of its port (R79), before whatever was to be presented. -/
def State.withFetchWord (s : State) (nbits w : Nat) : State :=
  { s with inputs := Cycle.ofWord (BitVec.ofNat 16 (w % 2 ^ nbits)) :: s.inputs }

end Sys2Proof.Machine
end

