-- ==== Sys2Proof/Machine/AnyConfig.lean ====
section
/-!
DEFINITION. AnyConfig: the block of every configuration (spec/00_scope.md R6, R7, R10): its operations, its words, its step function and its
cycles. `Instr`, `exec` and `step` are the same at ASB-1.
-/

namespace Sys2Proof.Machine

variable {c : Config}

/-- The `Op` of R10 and R82: the fourteen operations with operands of `W` bits, and "one constructor `ILLEGAL code`" (R74). -/
inductive Op (c : Config) where
  | nop
  | init
  | startSingle
  | startCont
  | stop
  | isRunning
  | isReady
  | getSingle
  | getAvg
  | rdStatus
  | rdSens (idx : BitVec c.w)
  | rdRef (idx : BitVec c.w)
  | convDone (v : BitVec c.w)
  | convErr
  | illegal (code : OpCode)
deriving DecidableEq, Repr

/-- `step : Config -> State -> Op -> State x Outputs` of R10, total on every `Op`. -/
def stepOp (b : Block c) : Op c → Block c × Outputs c
  | .nop => b.nop
  | .init => b.init
  | .startSingle => b.startSingle
  | .startCont => b.startCont
  | .stop => b.stop
  | .isRunning => b.isRunning
  | .isReady => b.isReady
  | .getSingle => b.getSingle
  | .getAvg => b.getAvg
  | .rdStatus => b.rdStatus
  | .rdSens idx => b.rdSens idx
  | .rdRef idx => b.rdRef idx
  | .convDone v => b.convDone v
  | .convErr => b.convErr
  | .illegal _ => (b, Outputs.illegal)

/-! ### Words of `W + 4` bits (spec/30_encoding.md R70 to R77, R82) -/

/-- The operation map of R72 for operands of any width. -/
def Op.ofFields (op : OpCode) (data : BitVec c.w) : Op c :=
  match op.toNat with
  | 0x0 => .nop
  | 0x1 => .init
  | 0x2 => .startSingle
  | 0x3 => .startCont
  | 0x4 => .stop
  | 0x5 => .isRunning
  | 0x6 => .isReady
  | 0x7 => .getSingle
  | 0x8 => .getAvg
  | 0x9 => .rdStatus
  | 0xA => .rdSens data
  | 0xB => .rdRef data
  | 0xC => .convDone data
  | 0xD => .convErr
  | _ => .illegal op

/-- `decode` of R82: `op` is the top four bits (R70). -/
def Op.decode (w : BitVec (4 + c.w)) : Op c := Op.ofFields (w.extractLsb' c.w 4) (w.extractLsb' 0 c.w)

/-- The `op` code (R72). -/
def Op.code : Op c → OpCode
  | .nop => 0x0
  | .init => 0x1
  | .startSingle => 0x2
  | .startCont => 0x3
  | .stop => 0x4
  | .isRunning => 0x5
  | .isReady => 0x6
  | .getSingle => 0x7
  | .getAvg => 0x8
  | .rdStatus => 0x9
  | .rdSens _ => 0xA
  | .rdRef _ => 0xB
  | .convDone _ => 0xC
  | .convErr => 0xD
  | .illegal code => code

/-- The operand, 0 where there is none (R75). -/
def Op.data : Op c → BitVec c.w
  | .rdSens idx => idx
  | .rdRef idx => idx
  | .convDone v => v
  | .nop => 0
  | .init => 0
  | .startSingle => 0
  | .startCont => 0
  | .stop => 0
  | .isRunning => 0
  | .isReady => 0
  | .getSingle => 0
  | .getAvg => 0
  | .rdStatus => 0
  | .convErr => 0
  | .illegal _ => 0

/-- The word `op ++ data` (R70, R80). -/
def Op.encode (o : Op c) : BitVec (4 + c.w) := o.code ++ o.data

/-- Whether an operation is in the image of `decode`: `ILLEGAL op` only "for `op` in {0xE, 0xF}" (R82). -/
def Op.isDecoded : Op c → Bool
  | .illegal code => decide (0xE ≤ code.toNat)
  | .nop | .init | .startSingle | .startCont | .stop | .isRunning | .isReady | .getSingle | .getAvg | .rdStatus | .rdSens _
  | .rdRef _ | .convDone _ | .convErr => true

/-! ### Cycles (spec/30_encoding.md R73, R79; spec/60_exceptions.md R168; spec/70_reset_and_hazards.md R200) -/

/-- The event port: at most one event (R79). -/
def Cycle.eventOps (x : Cycle c) : List (Op c) :=
  if x.evValid then [if x.evErr then .convErr else .convDone x.evData] else []

/-- The host port: at most one operation, illegal from code 0xC on (R73, R74, R79). -/
def Cycle.hostOps (x : Cycle c) : List (Op c) :=
  if x.cmdValid then [if x.cmdOp.toNat < 0xC then Op.ofFields x.cmdOp x.cmdData else .illegal x.cmdOp] else []

/-- One step after another; the output records in order. -/
def performAll (b : Block c) : List (Op c) → Block c × List (Outputs c)
  | [] => (b, [])
  | o :: os => ((performAll (stepOp b o).1 os).1, (stepOp b o).2 :: (performAll (stepOp b o).1 os).2)

/-- One clock cycle: a reset step alone, or the event and then the host operation (R168, R200). -/
def Block.cycle (b : Block c) (x : Cycle c) : Block c × List (Outputs c) :=
  if x.rst then (Block.reset c, [Outputs.zero]) else performAll b (x.eventOps ++ x.hostOps)

/-- A sequence of clock cycles. -/
def Block.cycles (b : Block c) : List (Cycle c) → Block c × List (Outputs c)
  | [] => (b, [])
  | x :: xs => (((b.cycle x).1.cycles xs).1, (b.cycle x).2 ++ ((b.cycle x).1.cycles xs).2)

end Sys2Proof.Machine

namespace Sys2Proof

/-- The operations of ASB-1 among those of every configuration. -/
def Instr.toOp : Instr → Machine.Op Config.asb1
  | .nop => .nop
  | .init => .init
  | .startSingle => .startSingle
  | .startCont => .startCont
  | .stop => .stop
  | .isRunning => .isRunning
  | .isReady => .isReady
  | .getSingle => .getSingle
  | .getAvg => .getAvg
  | .rdStatus => .rdStatus
  | .rdSens idx => .rdSens idx
  | .rdRef idx => .rdRef idx
  | .convDone v => .convDone v
  | .convErr => .convErr
  | .reservedE => .illegal 0xE
  | .reservedF => .illegal 0xF

end Sys2Proof
end

