-- ==== Sys2Proof/Machine/Run.lean ====
section
/-!
DEFINITION. Run: a run, its end state and its trace (spec/70_reset_and_hazards.md R217), and sequences of operations.
-/

namespace Sys2Proof.Machine

/-- How many steps a cycle takes: two when both ports present an operation (R168), otherwise one. -/
def Cycle.steps {c : Config} (x : Cycle c) : Nat := if x.rst then 1 else if x.evValid && x.cmdValid then 2 else 1

/-- The steps that exhaust a sequence of cycles. -/
def stepCount (cs : List (Cycle Config.asb1)) : Nat := (cs.map Cycle.steps).sum

/-- "A run is: one reset step, then a finite sequence of operations" (R217), and "every run begins with a reset step" (R203).
The `RESET` that a script starts with is that step; a script without one is given it (DESIGN CHOICE, log entry 19). -/
def beginWithReset (cs : List (Cycle Config.asb1)) : List (Cycle Config.asb1) :=
  match cs with
  | [] => [Cycle.resetPulse]
  | x :: rest => if x.rst then x :: rest else Cycle.resetPulse :: x :: rest

/-- How many steps the run of a sequence of cycles takes, its reset step counted. -/
def runLength (cs : List (Cycle Config.asb1)) : Nat := stepCount (beginWithReset cs)

/-- The start of a run: any state at all, for "the state of the block before its first reset step is not defined" (R203), with
the reset step and the sequence of cycles to come. -/
def State.startRun (s : State) (cs : List (Cycle Config.asb1)) : State := { s with inputs := beginWithReset cs }

/-- "The run ends when the sequence is exhausted; the *end state* is the state record then" (R217). -/
def endState (cs : List (Cycle Config.asb1)) : Host.Outcome State Fault Refusal :=
  Sys2Proof.core.run (runLength cs) (State.reset.startRun cs)

/-- The output records of the next `k` steps. -/
def traceFrom : Nat → State → List (Outputs Config.asb1)
  | 0, _ => []
  | k + 1, s =>
    match step s with
    | .next t => t.out :: traceFrom k t
    | .fault _ => []
    | .refused _ => []

/-- "The *trace* is the list of output records, one per step" (R217): the reset step's record first. -/
def trace (cs : List (Cycle Config.asb1)) : List (Outputs Config.asb1) := traceFrom (runLength cs) (State.reset.startRun cs)

/-- Operations applied one after the other, "top to bottom" (R80). -/
def execAll : List Instr → State → Host.Outcome State Fault Refusal
  | [], s => .next s
  | i :: is, s =>
    match exec i s with
    | .next t => execAll is t
    | .fault r => .fault r
    | .refused r => .refused r

/-- `ROUND s, r` (R81): `CONV_DONE s` then `CONV_DONE r`. -/
def roundOps (p : Data × Data) : List Instr := [.convDone p.1, .convDone p.2]

end Sys2Proof.Machine
end

