-- ==== Sys2Proof/Machine/Controller.lean ====
section
/-!
DEFINITION. Controller: the source's host, the Power Mode Controller, as far as it drives the block (spec/60_exceptions.md R175 to R178, R181,
R182, R189). It is no state of the block (spec/00_scope.md R5); the thresholds are arguments (U3 of spec/93_implementation_defined.md).
-/

namespace Sys2Proof.Machine

/-- `OperatingMode`: "{Idle, Active, Fault}" (R176); `InvalidMode` is unrepresentable (U5). -/
inductive OperatingMode where
  | idle
  | active
  | fault
deriving DecidableEq, Repr

/-- The host's two thresholds, in the block's result format (R152, U3). -/
structure Thresholds where
  activation : Int
  ceiling : Int
deriving DecidableEq, Repr

/-- "OperatingMode starts at Idle" (R176). -/
def OperatingMode.start : OperatingMode := .idle

/-- The getter a mode decides by: a single reading in Idle and Fault, the average in Active (R177). -/
def OperatingMode.getter : OperatingMode → Instr
  | .idle => .getSingle
  | .active => .getAvg
  | .fault => .getSingle

/-- The transitions of R177 on the mode's own reading. DESIGN CHOICE, log entry 14: in Active the ceiling is tested first. -/
def OperatingMode.next (th : Thresholds) (m : OperatingMode) (reading : Int) : OperatingMode :=
  match m with
  | .idle => if th.activation ≤ reading then .active else .idle
  | .active => if th.ceiling < reading then .fault else if reading < th.activation then .idle else .active
  | .fault => if reading < th.ceiling then .active else .fault

/-- "test `rsp.dz` before using `rsp.val`" (R175, R218): a degenerate answer is no reading and moves no mode
(DESIGN CHOICE, log entry 14). -/
def OperatingMode.observe (th : Thresholds) (m : OperatingMode) (r : CalibResult) : OperatingMode :=
  if r.dz then m else m.next th r.val

/-- The operation a transition issues (R177): Idle to Active "immediately begins continuous acquisition", Active to Idle
"begins single-shot acquisition"; the source names none for the others. No transition issues
`STOP`: the source says that it is "used at mode transitions" and not at which (R177; DESIGN CHOICE, log entry 14). -/
def OperatingMode.onTransition : OperatingMode → OperatingMode → List Instr
  | .idle, .active => [.startCont]
  | .active, .idle => [.startSingle]
  | _, _ => []

/-- The per-tick rule of R178: with nothing in flight and nothing ready, Idle and Active "(re)start an acquisition"; the kind is that of
the mode (DEDUCED from R177, log entry 14). In Fault mode the host "continues attempting single readings" (R181): R181 gives no
condition for the start, and the model's is that of R178 (DESIGN CHOICE, log entry 14), so none starts while an older session
runs, whose samples the single readings then take. -/
def OperatingMode.tick {c : Config} (m : OperatingMode) (b : Block c) : List Instr :=
  if b.running || b.ready then []
  else
    match m with
    | .idle => [.startSingle]
    | .active => [.startCont]
    | .fault => [.startSingle]

/-- A getter's answer as the host reads it: `rsp.dz`, and `rsp.val` as a signed number (R78). -/
def Outputs.reading {c : Config} (o : Outputs c) : CalibResult := { dz := o.dz, val := o.val.toInt }

/-- The host's controller and the machine it drives (R176). -/
structure Controlled where
  mode : OperatingMode
  machine : State
deriving DecidableEq, Repr

/-- The host issues operations one after the other; `none` if one stopped, which none does. -/
def Controlled.issue (x : Controlled) (ops : List Instr) : Option Controlled :=
  match execAll ops x.machine with
  | .next t => some { x with machine := t }
  | .fault _ => none
  | .refused _ => none

/-- A result is ready: take the mode's reading, move the mode by it, and issue what the transition asks for (R177). -/
def Controlled.sample (th : Thresholds) (x : Controlled) : Option Controlled :=
  (x.issue [x.mode.getter]).bind fun y =>
    let mode' := x.mode.observe th y.machine.out.reading
    { y with mode := mode' }.issue (OperatingMode.onTransition x.mode mode')

/-- One tick of the host's loop. After a converter error it "halts normal operation" (R182, R219). A reading is taken only when
`ready_o` says it is fresh (R24, R175, "callers must check `ResultReady` first"); otherwise the mode stays and R178 applies. That reading, mode and start
fall in one tick is the model's (DESIGN CHOICE, log entry 14). R178 has the host wait while "a minimum inter-sample interval has
not yet elapsed"; the source gives it no value (N18 of spec/91_not_in_source.md) and the model has no time, so a tick with a result
ready stands for one at which it has elapsed (DESIGN CHOICE, log entry 14). -/
def Controlled.tick (th : Thresholds) (x : Controlled) : Option Controlled :=
  if x.machine.faultO then some x
  else if x.machine.readyO then x.sample th
  else x.issue (x.mode.tick x.machine.block)

end Sys2Proof.Machine
end

