-- ==== Sys2Proof/Machine/OpTable.lean ====
section
/-!
DEFINITION. OpTable: the rows of spec/opcode_table.json as spec/30_encoding.md R83 describes them, with `match`, `mask` and `encoding` for
every sample width `W`.
-/

namespace Sys2Proof

/-- What the data field of a row holds (R71, R83): `x` ignored, `i` an index, `v` a value. -/
inductive OperandKind where
  | ignored
  | index
  | value
deriving DecidableEq, Repr

/-- One row (R83). What depends on `W` is computed from `op` and `operand` below. -/
structure OpRow where
  mnemonic : String
  /-- The code, "always the top four bits" of the word. -/
  op : OpCode
  operand : OperandKind
  /-- `host`, `event` or `none` (here `reserved`). -/
  port : Port
  /-- The number of "the `rule` that gives the semantics". -/
  rule : Nat
  /-- The numbers of the further rules. -/
  also : List Nat
  src : String
  note : Option String
deriving DecidableEq, Repr

/-- The rows of the control commands (R90 to R95). -/
def controlRows : List OpRow :=
  [⟨"NOP", 0x0, .ignored, .host, 91, [], "the source §4.1", some "added by the spec, decision D39"⟩,
    ⟨"INIT", 0x1, .ignored, .host, 92, [90], "the source §3", none⟩,
    ⟨"START_SINGLE", 0x2, .ignored, .host, 93, [90, 96], "the source §4.1", none⟩,
    ⟨"START_CONT", 0x3, .ignored, .host, 94, [90, 96], "the source §4.1", none⟩,
    ⟨"STOP", 0x4, .ignored, .host, 95, [90], "the source §5", none⟩]

/-- The rows of the host's reads (R130 to R135, R145, R146). -/
def readRows : List OpRow :=
  [⟨"IS_RUNNING", 0x5, .ignored, .host, 131, [130], "the source §4.1", none⟩,
    ⟨"IS_READY", 0x6, .ignored, .host, 132, [130], "the source §5", none⟩,
    ⟨"GET_SINGLE", 0x7, .ignored, .host, 145, [141, 144], "the source §4.2", none⟩,
    ⟨"GET_AVG", 0x8, .ignored, .host, 146, [141, 144], "the source §4.2", none⟩,
    ⟨"RD_STATUS", 0x9, .ignored, .host, 133, [35, 130], "the source §3", some "added by the spec, decision D23"⟩,
    ⟨"RD_SENS", 0xA, .index, .host, 134, [53, 130], "the source §3",
      some "added by the spec, decision D23; idx >= N answers rsp.ill = 1"⟩,
    ⟨"RD_REF", 0xB, .index, .host, 135, [53, 130], "the source §3",
      some "added by the spec, decision D23; idx >= N answers rsp.ill = 1"⟩]

/-- The rows of the event port (R110 to R113). -/
def eventRows : List OpRow :=
  [⟨"CONV_DONE", 0xC, .value, .event, 111, [110, 112], "the source §4.1",
      some "R111 when phase = 0, R112 when phase = 1; dropped when running = 0 (R110)"⟩,
    ⟨"CONV_ERR", 0xD, .ignored, .event, 113, [163], "the source §4.1", none⟩]

/-- The two rows of the reserved codes (R74). -/
def reservedRows : List OpRow :=
  [⟨"RESERVED_E", 0xE, .ignored, .reserved, 74, [], "the source §7", some "illegal: rsp.ill = 1, no state change; decision D20"⟩,
    ⟨"RESERVED_F", 0xF, .ignored, .reserved, 74, [], "the source §7", some "illegal: rsp.ill = 1, no state change; decision D20"⟩]

/-- "One row per operation of rule R72 (fourteen rows) plus two rows for the reserved codes" (R83). -/
def opTable : List OpRow := controlRows ++ readRows ++ eventRows ++ reservedRows

/-- `format`, the same for every row (R83). -/
def OpRow.format (_ : OpRow) : String := "OP4_DATA"

/-- `match` for samples of `w` bits: the `op` nibble on top, "the `data` part ... widens on the right". -/
def OpRow.matchWord (row : OpRow) (w : Nat) : BitVec (4 + w) := row.op ++ 0#w

/-- `mask`: the `op` bits alone (R75). -/
def OpRow.maskWord (_ : OpRow) (w : Nat) : BitVec (4 + w) := 0xF#4 ++ 0#w

/-- Whether a word belongs to a row: equal to `match` under `mask`. -/
def OpRow.covers (row : OpRow) {w : Nat} (word : BitVec (4 + w)) : Bool := word &&& row.maskWord w == row.matchWord w

/-- The letter of an operand in a pattern string. -/
def OperandKind.letter : OperandKind → Char
  | .ignored => 'x'
  | .index => 'i'
  | .value => 'v'

/-- The name of an operand's field. -/
def OperandKind.field : OperandKind → String
  | .ignored => "ignored"
  | .index => "idx"
  | .value => "v"

/-- `encoding`: the fixed bits of the nibble, most significant first, then one letter per data bit. -/
def OpRow.encoding (row : OpRow) (w : Nat) : List Char :=
  [3, 2, 1, 0].map (fun i => if row.op.getLsbD i then '1' else '0') ++ List.replicate w row.operand.letter

/-- `fields`, each with its highest and lowest bit. -/
def OpRow.fields (row : OpRow) (w : Nat) : List (String × Nat × Nat) :=
  [("op", w + 3, w), (row.operand.field, w - 1, 0)]

/-- The row a word belongs to. -/
def rowOf {w : Nat} (word : BitVec (4 + w)) : Option OpRow := opTable.find? fun row => row.covers word

end Sys2Proof
end

