-- ==== Sys2Proof/Machine/Script.lean ====
section
/-!
DEFINITION. Script: the event-script text of spec/30_encoding.md R80, R81, assembled into the cycles a harness presents.
-/

namespace Sys2Proof.Machine

/-- The mnemonics of R72 in the order of their `op` codes; the reserved codes have none in a script. -/
def mnemonics : List String := (controlRows ++ readRows ++ eventRows).map OpRow.mnemonic

/-- The `op` code of a mnemonic, which stands "in upper case" (R80). -/
def mnemonicOp (token : List Char) : Option OpCode :=
  (mnemonics.findIdx? fun m => m.toList == token).map (BitVec.ofNat 4)

/-- The pieces of a text between the characters that separate. -/
def splitChars (separates : Char → Bool) : List Char → List (List Char)
  | [] => [[]]
  | ch :: rest =>
    match splitChars separates rest with
    | [] => [[ch]]
    | piece :: pieces => if separates ch then [] :: piece :: pieces else (ch :: piece) :: pieces

/-- The tokens of a line: up to a `#` (R80), between blanks and the commas of R81. -/
def tokens (line : List Char) : List (List Char) :=
  (splitChars (fun ch => ch == ' ' || ch == '\t' || ch == '\r' || ch == ',') (line.takeWhile fun ch => ch != '#')).filter
    fun t => t != []

/-- The value of a digit, `none` if it is not one of the base. -/
def digitValue (base : Nat) (ch : Char) : Option Nat :=
  let d :=
    if '0' ≤ ch ∧ ch ≤ '9' then ch.toNat - '0'.toNat
    else if 'a' ≤ ch ∧ ch ≤ 'f' then ch.toNat - 'a'.toNat + 10
    else if 'A' ≤ ch ∧ ch ≤ 'F' then ch.toNat - 'A'.toNat + 10
    else base
  if d < base then some d else none

/-- The value of a digit string, most significant digit first. -/
def readDigits (base : Nat) : List Char → Nat → Option Nat
  | [], value => some value
  | ch :: rest, value => (digitValue base ch).bind fun d => readDigits base rest (value * base + d)

/-- An operand: "a decimal number or ... hexadecimal with a `0x` prefix" (R80). -/
def readNumber : List Char → Option Nat
  | [] => none
  | ['0', 'x'] => none
  | '0' :: 'x' :: digits => readDigits 16 digits 0
  | digits => readDigits 10 digits 0

/-- A number that fits the `data` field; the assembler "refuses an operand that does not fit" (R80). -/
def readOperand (token : List Char) : Option Data :=
  (readNumber token).bind fun v => if operandFits Config.asb1 v then some (BitVec.ofNat _ v) else none

/-- The two cycles of `ROUND s, r` (R81). -/
def roundCycles (s r : Data) : List (Cycle Config.asb1) :=
  [Cycle.ofWord (encode (.convDone s)), Cycle.ofWord (encode (.convDone r))]

/-- One line of a script (R80, R81); `none` where the assembler refuses it. -/
def assembleLine : List (List Char) → Option (List (Cycle Config.asb1))
  | [] => some []
  | [m] =>
    if m = "RESET".toList then some [Cycle.resetPulse]
    else (mnemonicOp m).bind fun op => if hasOperand op then none else some [Cycle.ofWord (joinWord op 0)]
  | [m, x] =>
    (mnemonicOp m).bind fun op =>
      if hasOperand op then (readOperand x).map fun v => [Cycle.ofWord (joinWord op v)] else none
  | [m, s, r] =>
    if m = "ROUND".toList then (readOperand s).bind fun s => (readOperand r).map fun r => roundCycles s r else none
  | [m, k, s, r] =>
    if m = "FILL".toList then
      (readNumber k).bind fun k =>
        (readOperand s).bind fun s => (readOperand r).map fun r => (List.replicate k (roundCycles s r)).flatten
    else none
  | _ => none

/-- The lines of a script one after the other; a refused line refuses the script. -/
def assembleLines : List (List Char) → Option (List (Cycle Config.asb1))
  | [] => some []
  | line :: rest =>
    (assembleLine (tokens line)).bind fun cs => (assembleLines rest).map fun ds => cs ++ ds

/-- The cycles of a script, "applied top to bottom" (R80). -/
def assemble (script : List Char) : Option (List (Cycle Config.asb1)) :=
  assembleLines (splitChars (fun ch => ch == '\n') script)

end Sys2Proof.Machine
end

