-- ==== Sys2Proof/Machine/Converter.lean ====
section
/-!
DEFINITION. Converter: the reference converter of spec/60_exceptions.md R170, R171 composed with the machine. It is environment, not state of
the block (spec/00_scope.md R12, spec/10_state.md R38); U8 of spec/93_implementation_defined.md asks for the composition.
-/

namespace Sys2Proof.Machine

/-- The block and the completions the converter still owes it (R170). -/
structure System where
  machine : State
  /-- "one counter `owed` in {0, 1, 2}, 0 at reset" (R170). -/
  owed : Fin 3
deriving DecidableEq, Repr

/-- What one of the agents of R12 may do next. -/
inductive Move where
  /-- An operation on the host port (R160); the reserved codes are answered there (R74). -/
  | host (i : Instr)
  /-- The converter delivers a completion with any value (R170, R174). -/
  | done (v : Data)
  /-- The converter delivers an error (R170). -/
  | error
  /-- The reset pin; it resets the converter too (R200, D34). -/
  | reset
deriving DecidableEq, Repr

/-- `arm` sets `owed <- 2`, `abort` sets `owed <- 0` (R170). -/
def owedAfter (out : Outputs Config.asb1) (owed : Fin 3) : Fin 3 := if out.arm then 2 else if out.abort then 0 else owed

/-- The block performs an operation, then the converter obeys its pulses. -/
def System.perform (σ : System) (i : Instr) (owed : Fin 3) : Option System :=
  match exec i σ.machine with
  | .next t => some { machine := t, owed := owedAfter t.out owed }
  | .fault _ => none
  | .refused _ => none

/-- One move of the system, `none` where the agent may not make it: the host issues no converter event (R73, R160), and the
converter delivers only what it owes (R170, R171). "The decrement precedes the `arm`" (R170). -/
def System.move (σ : System) : Move → Option System
  | .host i => if i.port = .event then none else σ.perform i σ.owed
  | .done v => if σ.owed = 0 then none else σ.perform (.convDone v) (σ.owed - 1)
  | .error => if σ.owed = 0 then none else σ.perform .convErr 0
  | .reset => some { machine := σ.machine.resetStep, owed := 0 }

/-! ### Infinite runs, and what is assumed of the converter in them (R172, R215) -/

/-- An infinite run of the system: its states, and the moves that lead from one to the next. -/
def System.IsRun (σ : Nat → System) (m : Nat → Move) : Prop := ∀ n, (σ n).move (m n) = some (σ (n + 1))

/-- At this point of a run the converter ends the round it was armed for: with the last completion it owes, or with an error
in place of one (R170). -/
def EndsRound (σ : Nat → System) (m : Nat → Move) (n : Nat) : Prop :=
  (∃ v, m n = .done v ∧ (σ n).owed = 1) ∨ (m n = .error ∧ (σ n).owed ≠ 0)

/-- The fairness premise of R172: "every armed round eventually completes or errors", unless an abort or a reset takes it back
before. It is a premise on the converter, "never ... a property of the block". -/
def ConverterFair (σ : Nat → System) (m : Nat → Move) : Prop :=
  ∀ n, (σ n).owed ≠ 0 → ∃ k, n ≤ k ∧ (EndsRound σ m k ∨ (σ k).owed = 0)

/-- A move that leaves the session alone: anything but the four state-changing commands (R90) and reset. -/
def Move.leavesSession : Move → Bool
  | .host i => i != .init && i != .startSingle && i != .startCont && i != .stop
  | .done _ => true
  | .error => true
  | .reset => false

/-- The system after reset (R170, R201). -/
def System.reset : System := { machine := State.reset, owed := 0 }

end Sys2Proof.Machine
end

