-- ==== Sys2Proof/Safety.lean ====
section
/-!
DEFINITION. Safety: the invariants of a run (spec/10_state.md R34), the access matrix (R40), the state machine (spec/41_adc_events.md R114), and the
invariant of the block composed with the reference converter (spec/60_exceptions.md R170, R171).
-/

namespace Sys2Proof.Machine

/-- R34 (a), (b), (c), (e), (g). Clause (d), `cur < N`, is the type of `cur`. -/
structure Block.Inv {c : Config} (b : Block c) : Prop where
  /-- (a) `cont = 1` implies `running = 1`. -/
  cont_running : b.cont = true → b.running = true
  /-- (b) `running = 0` implies `phase = 0`. -/
  idle_phase : b.running = false → b.phase = false
  /-- (c) `fault = 1` implies `running = 0`, `cont = 0`, `phase = 0`, `ready = 0`. -/
  fault_frozen : b.fault = true → b.running = false ∧ b.cont = false ∧ b.phase = false ∧ b.ready = false
  /-- (e) `cont = 1` and `ready = 1` implies `wrapped = 1`. -/
  ready_wrapped : b.cont = true → b.ready = true → b.wrapped = true
  /-- (g) `running = 1` and `cont = 0` implies `ready = 0`. -/
  single_pending : b.running = true → b.cont = false → b.ready = false

/-- The invariant of the whole machine: its block's; the outputs and the inputs are free. -/
abbrev State.Inv (s : State) : Prop := s.block.Inv

/-- The block and the reference converter agree on the round in flight: a completion is owed exactly while a round runs, and
it is the last one exactly when the block awaits the reference value (R38, R170, R171). -/
structure System.Inv (σ : System) : Prop where
  block : σ.machine.block.Inv
  owed_running : σ.owed = 0 ↔ σ.machine.block.running = false
  owed_phase : σ.owed = 1 ↔ σ.machine.block.phase = true

/-- What `k` whole rounds leave of a session freshly entered on the block `b` (R65, R112, R115): in flight, awaiting a sensor
value; the cursor at `k mod N`; `wrapped` and `ready` exactly from `k = N` on; the last `N` pairs in the buffer, bit for bit; and
the old words where no round has come. -/
structure Block.HoldsSession {c : Config} (b t : Block c) (rounds : List (BitVec c.w × BitVec c.w)) : Prop where
  in_flight : t.running = true ∧ t.cont = true ∧ t.phase = false ∧ t.fault = false
  cur : t.cur.val = rounds.length % c.n
  wrapped : t.wrapped = decide (c.n ≤ rounds.length)
  ready : t.ready = decide (c.n ≤ rounds.length)
  last_pairs : ∀ (j : Nat) (hj : j < rounds.length) (k : Fin c.n), k.val = j % c.n → rounds.length ≤ j + c.n →
    t.mem.read .sens k = rounds[j].1 ∧ t.mem.read .ref k = rounds[j].2
  not_reached : ∀ (sp : Space) (k : Fin c.n), rounds.length ≤ k.val → t.mem.read sp k = b.mem.read sp k

/-- The fields of the access matrix (R40); `sens` and `ref` are one column there. -/
inductive Field where
  | running
  | ready
  | cont
  | phase
  | wrapped
  | fault
  | cur
  | hold
  | buffer
deriving DecidableEq, Repr

/-- Two blocks agree on one field. -/
def Block.agree {c : Config} (f : Field) (b b' : Block c) : Prop :=
  match f with
  | .running => b'.running = b.running
  | .ready => b'.ready = b.ready
  | .cont => b'.cont = b.cont
  | .phase => b'.phase = b.phase
  | .wrapped => b'.wrapped = b.wrapped
  | .fault => b'.fault = b.fault
  | .cur => b'.cur = b.cur
  | .hold => b'.hold = b.hold
  | .buffer => ∀ sp i, b'.mem.read sp i = b.mem.read sp i

end Sys2Proof.Machine

namespace Sys2Proof

/-- The fields each operation may write: the `w` entries of the access matrix (R40). The reserved codes write none (R74). -/
def Instr.mayWrite : Instr → List Machine.Field
  | .nop => []
  | .init => [.running, .ready, .cont, .phase, .wrapped, .cur, .hold, .buffer]
  | .startSingle => [.running, .ready, .cont, .phase]
  | .startCont => [.running, .ready, .cont, .phase, .wrapped, .cur]
  | .stop => [.running, .cont, .phase]
  | .isRunning => []
  | .isReady => []
  | .getSingle => [.ready]
  | .getAvg => []
  | .rdStatus => []
  | .rdSens _ => []
  | .rdRef _ => []
  | .convDone _ => [.running, .ready, .phase, .wrapped, .cur, .hold, .buffer]
  | .convErr => [.running, .ready, .cont, .phase, .fault]
  | .reservedE => []
  | .reservedF => []

end Sys2Proof

namespace Sys2Proof.Machine

/-- The transition table of R114: the control state after an operation. Reads, `NOP` and the reserved codes keep it. -/
def Control.next : Control → Instr → Control
  | .FAULT, _ => .FAULT
  | _, .convErr => .FAULT
  | _, .init => .IDLE
  | _, .stop => .IDLE
  | .IDLE, .startSingle => .S0
  | .S0, .startSingle => .S0
  | .S1, .startSingle => .S1
  | .C0, .startSingle => .S0
  | .C1, .startSingle => .S1
  | .IDLE, .startCont => .C0
  | .S0, .startCont => .C0
  | .S1, .startCont => .C1
  | .C0, .startCont => .C0
  | .C1, .startCont => .C1
  | .IDLE, .convDone _ => .IDLE
  | .S0, .convDone _ => .S1
  | .S1, .convDone _ => .IDLE
  | .C0, .convDone _ => .C1
  | .C1, .convDone _ => .C0
  | q, _ => q

end Sys2Proof.Machine
end

