-- ==== Sys2Proof/Certificates/Slice0/Obligations.lean ====
section
/-!
DEFINITION. Obligations: the statements made about the machine, from the numbered rules of spec/.
-/

open Sys2Proof Sys2Proof.Machine

/-! ### Encoding (spec/30_encoding.md) -/

/-- The words of R72's last column, written out by hand from the map, decode to their operations. -/
def Obligations.HandWrittenWordsDecode : Prop :=
  decode 0x0000 = .nop ∧ decode 0x1000 = .init ∧ decode 0x2000 = .startSingle ∧ decode 0x3000 = .startCont ∧
    decode 0x4000 = .stop ∧ decode 0x5000 = .isRunning ∧ decode 0x6000 = .isReady ∧ decode 0x7000 = .getSingle ∧
    decode 0x8000 = .getAvg ∧ decode 0x9000 = .rdStatus ∧ decode 0xA007 = .rdSens 7 ∧ decode 0xBFFF = .rdRef 4095 ∧
    decode 0xC999 = .convDone 2457 ∧ decode 0xD000 = .convErr ∧ decode 0xE000 = .reservedE ∧ decode 0xFFFF = .reservedF

/-- R70, R72, R75, R77: the top four bits alone select the operation, and the low twelve bits are the operand as
encoded, or are ignored. -/
def Obligations.TopNibbleSelectsOperation : Prop :=
  ∀ w : OpWord,
    (w.toNat / 4096 = 0 → decode w = .nop) ∧ (w.toNat / 4096 = 1 → decode w = .init) ∧
    (w.toNat / 4096 = 2 → decode w = .startSingle) ∧ (w.toNat / 4096 = 3 → decode w = .startCont) ∧
    (w.toNat / 4096 = 4 → decode w = .stop) ∧ (w.toNat / 4096 = 5 → decode w = .isRunning) ∧
    (w.toNat / 4096 = 6 → decode w = .isReady) ∧ (w.toNat / 4096 = 7 → decode w = .getSingle) ∧
    (w.toNat / 4096 = 8 → decode w = .getAvg) ∧ (w.toNat / 4096 = 9 → decode w = .rdStatus) ∧
    (w.toNat / 4096 = 10 → decode w = .rdSens (BitVec.ofNat _ (w.toNat % 4096))) ∧
    (w.toNat / 4096 = 11 → decode w = .rdRef (BitVec.ofNat _ (w.toNat % 4096))) ∧
    (w.toNat / 4096 = 12 → decode w = .convDone (BitVec.ofNat _ (w.toNat % 4096))) ∧
    (w.toNat / 4096 = 13 → decode w = .convErr) ∧ (w.toNat / 4096 = 14 → decode w = .reservedE) ∧
    (w.toNat / 4096 = 15 → decode w = .reservedF)

/-- R82, both directions: decoding the encoding of an operation gives it back; encoding what a word decodes to gives the
word with its ignored data bits cleared (only codes 0xA, 0xB, 0xC have an operand). -/
def Obligations.DecodeAndEncodeAreInverse : Prop :=
  (∀ i : Instr, i.wellFormed = true → decode (encode i) = i) ∧
    ∀ w : OpWord,
      ((w.toNat / 4096 = 10 ∨ w.toNat / 4096 = 11 ∨ w.toNat / 4096 = 12) → encode (decode w) = w) ∧
      (¬(w.toNat / 4096 = 10 ∨ w.toNat / 4096 = 11 ∨ w.toNat / 4096 = 12) → encode (decode w) = w &&& 0xF000)

/-! ### The step (spec/00_scope.md R10; spec/60_exceptions.md R168; spec/70_reset_and_hazards.md R200) -/

/-- R10, R73, R79: when an operation word is presented next, the step is `exec` of the operation it decodes to, and nothing else happens
around it. The model's own choices in it: what is presented stands in `inputs` and the presented cycle is taken off, as
`withFetchWord` puts it there (DESIGN CHOICE, log entry 2); the words of the reserved codes are presented on the host port (DEDUCED,
log entry 5). -/
def Obligations.StepRunsPresentedWord : Prop :=
  ∀ (s : State) (w : OpWord) (i : Instr), decode w = i →
    step { s with inputs := Cycle.ofWord w :: s.inputs } = exec i s ∧ step (s.withFetchWord 16 w.toNat) = exec i s

/-- R168, R79, R73, R74: within a cycle without reset the event port is one step and the host port a second step that sees the result
of the first; a host code of 12 or more is then answered with `rsp.ill = 1` in the state the event left (with the host port alone:
`IllegalOperationsAreAnswered`). The model's own choices: a cycle in which nothing is presented is a step that answers zeros (log
entry 3), and how the cycle is taken off `inputs` (log entries 2, 7). -/
def Obligations.EventPortPrecedesHostPort : Prop :=
  ∀ (s : State) (x : Cycle Config.asb1) (rest : List (Cycle Config.asb1)), s.inputs = x :: rest → x.rst = false →
    (x.evValid = true → x.cmdValid = false →
      step s = exec (if x.evErr = true then .convErr else .convDone x.evData) { s with inputs := rest }) ∧
    (x.evValid = true → x.cmdValid = true →
      ∃ m t, exec (if x.evErr = true then .convErr else .convDone x.evData) { s with inputs := rest } = .next m ∧
        step s = .next t ∧ t.block = m.block ∧ t.out = m.out ∧
        (x.cmdOp.toNat < 12 → step t = exec (decode (joinWord x.cmdOp x.cmdData)) m) ∧
        (12 ≤ x.cmdOp.toNat → step t = .next { m with
          out := { val := 0, dz := false, ill := true, arm := false, abort := false } })) ∧
    (x.evValid = false → x.cmdValid = true → x.cmdOp.toNat < 12 →
      step s = exec (decode (joinWord x.cmdOp x.cmdData)) { s with inputs := rest }) ∧
    (x.evValid = false → x.cmdValid = false → step s = .next { s with inputs := rest, out := Outputs.zero })

/-- R73, R74: a reserved code, and on the host port an event code or a reserved code, is answered with `rsp.ill = 1` alone and
changes no state. -/
def Obligations.IllegalOperationsAreAnswered : Prop :=
  (∀ s : State,
    exec .reservedE s = .next { s with out := { val := 0, dz := false, ill := true, arm := false, abort := false } } ∧
    exec .reservedF s = .next { s with out := { val := 0, dz := false, ill := true, arm := false, abort := false } }) ∧
  ∀ (s : State) (x : Cycle Config.asb1) (rest : List (Cycle Config.asb1)), s.inputs = x :: rest → x.rst = false →
    x.evValid = false → x.cmdValid = true → 12 ≤ x.cmdOp.toNat →
    step s = .next { s with
      inputs := rest, out := { val := 0, dz := false, ill := true, arm := false, abort := false } }

/-- R10: every step completes. With nothing left to present the block keeps its state and the outputs are 0; that such a
step exists is the model's choice (log entry 3), since R217 ends the run there. -/
def Obligations.EveryStepCompletes : Prop :=
  ∀ s : State, (∃ t, step s = .next t) ∧ (s.inputs = [] → step s = .next { s with out := Outputs.zero })

/-- R39, R201: every field and every output is 0 at reset. -/
def Obligations.ResetStateIsAllZero : Prop :=
  State.reset.block.running = false ∧ State.reset.block.ready = false ∧ State.reset.block.cont = false ∧
    State.reset.block.phase = false ∧ State.reset.block.wrapped = false ∧ State.reset.block.fault = false ∧
    State.reset.block.cur.val = 0 ∧ State.reset.block.hold = 0 ∧
    (∀ sp i, State.reset.block.mem.read sp i = 0) ∧
    State.reset.out = { val := 0, dz := false, ill := false, arm := false, abort := false } ∧
    State.reset.runningO = false ∧ State.reset.readyO = false ∧ State.reset.faultO = false

/-- R200, R201: in any state, whatever the ports present, a cycle with `rst = 1` gives every field its reset value and every
output 0; no `abort` is pulsed. That the step takes its own cycle off `inputs` and keeps the rest (`t.inputs = rest`) is the model's
choice (DESIGN CHOICE, log entry 8). -/
def Obligations.ResetStepClearsEverything : Prop :=
  ∀ (s : State) (x : Cycle Config.asb1) (rest : List (Cycle Config.asb1)), s.inputs = x :: rest → x.rst = true →
    ∃ t, step s = .next t ∧ t.inputs = rest ∧
      t.out = { val := 0, dz := false, ill := false, arm := false, abort := false } ∧
      t.block.running = false ∧ t.block.ready = false ∧ t.block.cont = false ∧ t.block.phase = false ∧
      t.block.wrapped = false ∧ t.block.fault = false ∧ t.block.cur.val = 0 ∧ t.block.hold = 0 ∧
      ∀ sp i, t.block.mem.read sp i = 0

/-! ### Control commands (spec/40_control_commands.md) -/

/-- R90: with `fault = 1` the four state-changing commands change no state and all their outputs are 0. -/
def Obligations.CommandsAreGatedByFault : Prop :=
  ∀ (s : State) (i : Instr), i = .init ∨ i = .startSingle ∨ i = .startCont ∨ i = .stop → s.block.fault = true →
    exec i s = .next { s with out := { val := 0, dz := false, ill := false, arm := false, abort := false } }

/-- R92: without a fault `INIT` leaves the reset values everywhere in the block and pulses `abort` exactly when a round was in
flight. -/
def Obligations.InitZeroesTheBlock : Prop :=
  ∀ s : State, s.block.fault = false →
    ∃ t, exec .init s = .next t ∧ t.block = State.reset.block ∧ t.inputs = s.inputs ∧
      t.out = { val := 0, dz := false, ill := false, arm := false, abort := s.block.running } ∧
      ∀ sp i, t.block.mem.read sp i = 0

/-- R93: without a fault `START_SINGLE` clears `ready` and `cont`, and arms a round exactly when none is in flight; everything
else is unchanged. -/
def Obligations.StartSingleEffect : Prop :=
  ∀ s : State, s.block.fault = false →
    exec .startSingle s = .next { s with
      block := { s.block with
        ready := false, cont := false, running := true, phase := s.block.running && s.block.phase }
      out := { val := 0, dz := false, ill := false, arm := !s.block.running, abort := false } }

/-- R94: without a fault a fresh `START_CONT` resets cursor, `wrapped` and `ready`, and arms a round exactly when none is in
flight; a repeated one changes nothing; everything else is unchanged. -/
def Obligations.StartContEffect : Prop :=
  ∀ s : State, s.block.fault = false →
    (s.block.cont = false → ∃ t, exec .startCont s = .next t ∧ t.block.cur.val = 0 ∧
      t = { s with
        block := { s.block with
          cont := true, running := true, ready := false, wrapped := false, cur := t.block.cur
          phase := s.block.running && s.block.phase }
        out := { val := 0, dz := false, ill := false, arm := !s.block.running, abort := false } }) ∧
    (s.block.cont = true →
      exec .startCont s = .next { s with out := { val := 0, dz := false, ill := false, arm := false, abort := false } })

/-- R95: without a fault `STOP` clears `running`, `cont` and `phase`, pulses `abort` exactly when a round was in flight, and
leaves everything else unchanged. -/
def Obligations.StopEffect : Prop :=
  ∀ s : State, s.block.fault = false →
    exec .stop s = .next { s with
      block := { s.block with running := false, cont := false, phase := false }
      out := { val := 0, dz := false, ill := false, arm := false, abort := s.block.running } }

/-! ### Reads (spec/42_status_reads.md) -/

/-- R91, R131, R132, R36: in every state `NOP` answers zeros, `IS_RUNNING` and `IS_READY` answer the level outputs zero-extended;
none of them changes the block. -/
def Obligations.NopAndFlagReads : Prop :=
  ∀ s : State,
    exec .nop s = .next { s with out := { val := 0, dz := false, ill := false, arm := false, abort := false } } ∧
    exec .isRunning s = .next { s with
      out := { val := if s.runningO = true then 1 else 0, dz := false, ill := false, arm := false, abort := false } } ∧
    exec .isReady s = .next { s with
      out := { val := if s.readyO = true then 1 else 0, dz := false, ill := false, arm := false, abort := false } }

/-- R133, R35, R27: the status word has `running`, `ready`, `cont`, `phase`, `wrapped`, `fault` in bits 0 to 5, `acq` (2 when ready,
else 1 when running, else 0) in bits 7..6 and `cur` from bit 8 on; `RD_STATUS` changes nothing, in every state. -/
def Obligations.StatusWordLayout : Prop :=
  ∀ s : State, ∃ t, exec .rdStatus s = .next t ∧ t.block = s.block ∧ t.inputs = s.inputs ∧
    t.out.dz = false ∧ t.out.ill = false ∧ t.out.arm = false ∧ t.out.abort = false ∧
    t.out.val.toNat = s.block.running.toNat + 2 * s.block.ready.toNat + 4 * s.block.cont.toNat +
      8 * s.block.phase.toNat + 16 * s.block.wrapped.toNat + 32 * s.block.fault.toNat +
      64 * (if s.block.ready = true then 2 else if s.block.running = true then 1 else 0) + 256 * s.block.cur.val

/-- R134, R135: a direct read below `N` answers the word zero-extended, from `N` on it answers `rsp.ill = 1` and 0; it changes
nothing, in every state. -/
def Obligations.BufferReads : Prop :=
  ∀ (s : State) (idx : Data),
    (∀ k : Fin Config.asb1.n, idx.toNat = k.val →
      exec (.rdSens idx) s = .next { s with
        out := { val := BitVec.ofNat _ (s.block.mem.read .sens k).toNat, dz := false, ill := false, arm := false
                 abort := false } } ∧
      exec (.rdRef idx) s = .next { s with
        out := { val := BitVec.ofNat _ (s.block.mem.read .ref k).toNat, dz := false, ill := false, arm := false
                 abort := false } }) ∧
    (8 ≤ idx.toNat →
      exec (.rdSens idx) s = .next { s with
        out := { val := 0, dz := false, ill := true, arm := false, abort := false } } ∧
      exec (.rdRef idx) s = .next { s with
        out := { val := 0, dz := false, ill := true, arm := false, abort := false } })

/-- R38, R31: `hold` is not readable by any host operation: with another `hold` every host operation answers the same and leaves
every other field the same. -/
def Obligations.HoldIsHiddenFromTheHost : Prop :=
  ∀ (i : Instr) (s : State) (h : Data), i.port = .host →
    ∃ t t', exec i s = .next t ∧ exec i { s with block := { s.block with hold := h } } = .next t' ∧
      t'.out = t.out ∧ ∀ f : Field, f ≠ .hold → Block.agree f t.block t'.block

/-! ### The getters and the calibration (spec/43_calibration.md) -/

/-- R145, R141, R144: `GET_SINGLE` answers the floor of `64000 (a - r) / r` for the pair at `(cur - 1) mod 8`, or `dz = 1` and the
sentinel when `r = 0`; it clears `ready` unless faulted and changes nothing else. -/
def Obligations.GetSingleEffect : Prop :=
  ∀ (s : State) (k : Fin Config.asb1.n), k.val = (s.block.cur.val + 7) % 8 →
    ∀ a r : Nat, (s.block.mem.read .sens k).toNat = a → (s.block.mem.read .ref k).toNat = r →
      exec .getSingle s = .next { s with
        block := { s.block with ready := s.block.ready && s.block.fault }
        out := { val := if r = 0 then 0x80000000 else BitVec.ofInt _ ⌊64000 * ((a : ℚ) - r) / r⌋
                 dz := decide (r = 0), ill := false, arm := false, abort := false } }

/-- R146, R141, R144: `GET_AVG` answers the same formula on the sums over the whole buffer; no state changes. -/
def Obligations.GetAvgEffect : Prop :=
  ∀ (s : State) (a r : Nat), ∑ k, (s.block.mem.read .sens k).toNat = a → ∑ k, (s.block.mem.read .ref k).toNat = r →
    exec .getAvg s = .next { s with
      out := { val := if r = 0 then 0x80000000 else BitVec.ofInt _ ⌊64000 * ((a : ℚ) - r) / r⌋
               dz := decide (r = 0), ill := false, arm := false, abort := false } }

/-- R143, for every configuration that meets R7: the calibration of operands no greater than the largest sum is within its
stated range and is never the sentinel. -/
def Obligations.CalibrationRange : Prop :=
  ∀ (c : Config) (a b : Nat), 1 ≤ b → a ≤ c.n * (2 ^ c.w - 1) → b ≤ c.n * (2 ^ c.w - 1) →
    -((c.g * 2 ^ c.f : Nat) : Int) ≤ (calib c a b).val ∧
      (calib c a b).val ≤ ((c.g * 2 ^ c.f * (c.n * (2 ^ c.w - 1) - 1) : Nat) : Int) ∧ (calib c a b).val ≠ c.tmin

/-- R143, R147, for every configuration: both getters return their result exactly; no sum, product or quotient wraps. -/
def Obligations.ResultsNeverWrap : Prop :=
  ∀ (c : Config) (b : Block c),
    (b.getSingle.2.val).toInt = b.lastReading.val ∧ (b.getAvg.2.val).toInt = b.averageReading.val

/-- R143, R144, R145, R146: a getter answers the sentinel if and only if it answers `dz = 1`, which it does if and only if its reference
operand is 0: the word at `(cur - 1) mod 8` for `GET_SINGLE`, every word of `ref` (so that their sum is 0) for `GET_AVG`. -/
def Obligations.SentinelExactlyOnZeroReference : Prop :=
  ∀ s : State,
    (∃ t, exec .getSingle s = .next t ∧ (t.out.dz = true ↔ t.out.val = 0x80000000) ∧
      ∀ k : Fin Config.asb1.n, k.val = (s.block.cur.val + 7) % 8 → (t.out.dz = true ↔ s.block.mem.read .ref k = 0)) ∧
    ∃ t, exec .getAvg s = .next t ∧ (t.out.dz = true ↔ t.out.val = 0x80000000) ∧
      (t.out.dz = true ↔ ∀ k, s.block.mem.read .ref k = 0)

/-- R148, for every configuration: the result is never above the exact temperature and below it by less than `2^-F`. -/
def Obligations.RoundingErrorBound : Prop :=
  ∀ (c : Config) (a b : Nat), 1 ≤ b →
    0 ≤ 2 ^ c.f * ((c.g : ℚ) * (a - b) / b) - (calib c a b).val ∧
      2 ^ c.f * ((c.g : ℚ) * (a - b) / b) - (calib c a b).val < 1 ∧
      ((calib c a b).val : ℚ) / 2 ^ c.f ≤ (c.g : ℚ) * (a - b) / b ∧
      (c.g : ℚ) * (a - b) / b - ((calib c a b).val : ℚ) / 2 ^ c.f < 1 / 2 ^ c.f

/-- R142, R140: on ASB-1 the result is the source's two-step formula with its constants 1.25 V and 0.005 V/°C, evaluated in exact
arithmetic, scaled by `2^8` and rounded down once. -/
def Obligations.CalibrationIsTheSourceFormula : Prop :=
  ∀ s r : Nat, 1 ≤ r →
    (calib Config.asb1 s r).val = ⌊(2 : ℚ) ^ 8 * (((s : ℚ) * (1.25 / r) - 1.25) / 0.005)⌋

/-- R150: equal operands read exactly 0 (for every configuration), and on a buffer of identical pairs `GET_AVG` and `GET_SINGLE`
give the same outputs. -/
def Obligations.CalibrationIdentities : Prop :=
  (∀ (c : Config) (k : Nat), 1 ≤ k → calib c k k = { dz := false, val := 0 }) ∧
    ∀ (s : State) (a r : Data), (∀ k, s.block.mem.read .sens k = a ∧ s.block.mem.read .ref k = r) →
      ∃ t u, exec .getAvg s = .next t ∧ exec .getSingle s = .next u ∧ t.out = u.out

/-- R57, R145: `GET_SINGLE` twice gives the same answer twice; `ready` is 0 after the first unless the block is faulted, and the
second changes nothing. -/
def Obligations.GetSingleTwice : Prop :=
  ∀ s : State, ∃ t u, exec .getSingle s = .next t ∧ exec .getSingle t = .next u ∧ u.out = t.out ∧ u.block = t.block ∧
    (s.block.fault = false → t.block.ready = false)

/-- R205: the answers of every read straight after reset or `INIT`, that is, on the reset block (`InitZeroesTheBlock`). -/
def Obligations.ReadsStraightAfterReset : Prop :=
  ∀ s : State, s.block = State.reset.block →
    (∀ i : Instr, i = .isRunning ∨ i = .isReady ∨ i = .rdStatus →
      ∃ t, exec i s = .next t ∧ t.out = { val := 0, dz := false, ill := false, arm := false, abort := false }) ∧
    (∀ (idx : Data) (i : Instr), idx.toNat < 8 → i = .rdSens idx ∨ i = .rdRef idx →
      ∃ t, exec i s = .next t ∧ t.out = { val := 0, dz := false, ill := false, arm := false, abort := false }) ∧
    (∀ i : Instr, i = .getSingle ∨ i = .getAvg →
      ∃ t, exec i s = .next t ∧ t.out = { val := 0x80000000, dz := true, ill := false, arm := false, abort := false })

/-! ### Converter events (spec/41_adc_events.md) -/

/-- R110: with `fault = 1`, or with no round in flight, `CONV_DONE` changes nothing and answers nothing. -/
def Obligations.SpuriousCompletionIsDropped : Prop :=
  ∀ (s : State) (v : Data), s.block.fault = true ∨ s.block.running = false →
    exec (.convDone v) s = .next { s with out := { val := 0, dz := false, ill := false, arm := false, abort := false } }

/-- R111: the first completion of a round latches its value and sets `phase`; nothing else changes. -/
def Obligations.SensorCompletionIsLatched : Prop :=
  ∀ (s : State) (v : Data), s.block.fault = false → s.block.running = true → s.block.phase = false →
    exec (.convDone v) s = .next { s with
      block := { s.block with hold := v, phase := true }
      out := { val := 0, dz := false, ill := false, arm := false, abort := false } }

/-- R112: the last completion of a round stores the pair at the cursor and advances it; continuous mode re-arms and sets
`ready` once wrapped, single mode sets `ready` and stops; every other word and field is unchanged. -/
def Obligations.ReferenceCompletionStoresThePair : Prop :=
  ∀ (s : State) (v : Data), s.block.fault = false → s.block.running = true → s.block.phase = true →
    ∃ t, exec (.convDone v) s = .next t ∧
      t.block.mem.read .sens s.block.cur = s.block.hold ∧ t.block.mem.read .ref s.block.cur = v ∧
      (∀ sp k, k ≠ s.block.cur → t.block.mem.read sp k = s.block.mem.read sp k) ∧
      t.block.cur.val = (s.block.cur.val + 1) % 8 ∧ t.block.phase = false ∧ t.block.hold = s.block.hold ∧
      t.block.fault = false ∧ t.block.cont = s.block.cont ∧ t.inputs = s.inputs ∧
      (s.block.cont = true → t.block.running = true ∧
        t.block.wrapped = (s.block.wrapped || decide (s.block.cur.val = 7)) ∧
        t.block.ready = (s.block.ready || t.block.wrapped) ∧
        t.out = { val := 0, dz := false, ill := false, arm := true, abort := false }) ∧
      (s.block.cont = false → t.block.running = false ∧ t.block.wrapped = s.block.wrapped ∧ t.block.ready = true ∧
        t.out = { val := 0, dz := false, ill := false, arm := false, abort := false })

/-- R112 corner case 2 and R146 corner case 4, for every configuration with one entry: the first completed continuous round wraps and is
ready, and the two getters agree. -/
def Obligations.OneEntryBuffer : Prop :=
  ∀ (c : Config) (b : Block c), c.n = 1 →
    (∀ v, b.fault = false → b.running = true → b.phase = true → b.cont = true →
      (b.convDone v).1.wrapped = true ∧ (b.convDone v).1.ready = true ∧ (b.convDone v).1.cur = b.cur ∧
        (b.convDone v).2.arm = true) ∧
    b.getAvg.2 = b.getSingle.2

/-- R113, R163: `CONV_ERR` takes the fault: `fault` set, `running`, `cont`, `phase`, `ready` cleared, all else unchanged, nothing
pulsed; with `fault = 1` it changes nothing. -/
def Obligations.ConversionErrorEntersFault : Prop :=
  ∀ s : State,
    (s.block.fault = false → exec .convErr s = .next { s with
      block := { s.block with fault := true, running := false, cont := false, phase := false, ready := false }
      out := { val := 0, dz := false, ill := false, arm := false, abort := false } }) ∧
    (s.block.fault = true → exec .convErr s = .next { s with
      out := { val := 0, dz := false, ill := false, arm := false, abort := false } })

/-- R164: while `fault = 1` every operation completes, none changes any state of the block, and none pulses. -/
def Obligations.FaultStateIsFrozen : Prop :=
  ∀ (i : Instr) (s : State), s.block.fault = true →
    ∃ t, exec i s = .next t ∧ t.block = s.block ∧ t.out.arm = false ∧ t.out.abort = false

/-- R165, R200, R29: a step from a faulted state either keeps the whole block or is a reset step; and a step sets `fault` only
by an error event. -/
def Obligations.FaultIsEnteredByErrorAndLeftByReset : Prop :=
  ∀ s t : State, step s = .next t →
    (s.block.fault = true → t.block = s.block ∨
      (t.block = State.reset.block ∧ ∃ x rest, s.inputs = x :: rest ∧ x.rst = true)) ∧
    (s.block.fault = false → t.block.fault = true →
      ∃ x rest, s.inputs = x :: rest ∧ x.rst = false ∧ x.evValid = true ∧ x.evErr = true)

/-! ### The whole machine -/

/-- R40: an operation writes no field outside its row of the access matrix. -/
def Obligations.AccessMatrixHolds : Prop :=
  ∀ (i : Instr) (s t : State) (f : Field), exec i s = .next t → f ∉ i.mayWrite → Block.agree f s.block t.block

/-- R33, R56: at every index the two words are both left alone, or both written by the last completion of one round, or both
zeroed by `INIT`. -/
def Obligations.PairsAreWrittenTogether : Prop :=
  ∀ (i : Instr) (s t : State) (k : Fin Config.asb1.n), exec i s = .next t →
    (t.block.mem.read .sens k = s.block.mem.read .sens k ∧ t.block.mem.read .ref k = s.block.mem.read .ref k) ∨
    (∃ v, i = .convDone v ∧ s.block.fault = false ∧ s.block.running = true ∧ s.block.phase = true ∧ k = s.block.cur ∧
      t.block.mem.read .sens k = s.block.hold ∧ t.block.mem.read .ref k = v) ∨
    (i = .init ∧ s.block.fault = false ∧ t.block.mem.read .sens k = 0 ∧ t.block.mem.read .ref k = 0)

/-- R24, R56: `ready` rises only in the last completion of a round, in single mode or once wrapped, and the pair is in the buffer
in that same step. -/
def Obligations.ReadyRisesOnlyWithACompletedPair : Prop :=
  ∀ (i : Instr) (s t : State), exec i s = .next t → s.block.ready = false → t.block.ready = true →
    ∃ v, i = .convDone v ∧ s.block.running = true ∧ s.block.phase = true ∧ (s.block.cont = false ∨ t.block.wrapped = true) ∧
      t.block.mem.read .sens s.block.cur = s.block.hold ∧ t.block.mem.read .ref s.block.cur = v

/-- R78, R96: never both pulses; `arm` only where a start finds no round in flight and begins one, or a continuous round ends and
begins the next; `abort` only where `STOP` or `INIT` ends a round; and `running` never rises without `arm`. -/
def Obligations.OneRoundInFlight : Prop :=
  ∀ (i : Instr) (s t : State), exec i s = .next t →
    ¬(t.out.arm = true ∧ t.out.abort = true) ∧
    (t.out.arm = true → t.block.running = true ∧ t.block.phase = false ∧
      ((s.block.running = false ∧ (i = .startSingle ∨ i = .startCont)) ∨
        (s.block.running = true ∧ s.block.phase = true ∧ s.block.cont = true ∧ ∃ v, i = .convDone v))) ∧
    (t.out.abort = true → s.block.running = true ∧ t.block.running = false ∧ (i = .stop ∨ i = .init)) ∧
    (s.block.running = false → t.block.running = true → t.out.arm = true)

/-- R34 (a), (b), (c), (e), (g) hold at reset. -/
def Obligations.StateInvariantHoldsAtReset : Prop := State.reset.Inv

/-- R34: every step keeps the invariants, whatever is presented. -/
def Obligations.EveryStepKeepsStateInvariant : Prop :=
  ∀ s t : State, s.Inv → step s = .next t → t.Inv

/-- R114: under the invariants the block is in one of the six control states, and every operation moves it by the transition
table. -/
def Obligations.ControlStateMachine : Prop :=
  (∀ s : State, s.Inv → ∃ q, s.block.control = some q) ∧
    ∀ (i : Instr) (s t : State) (q : Control), s.block.control = some q → exec i s = .next t →
      t.block.control = some (q.next i)

/-- R115, R65: after a fresh `START_CONT` and `k` whole rounds, the cursor is at `k mod 8`, `ready` and `wrapped` are 1 exactly when
`k ≥ 8`, the last eight pairs are in the buffer bit for bit, and indices not reached keep their old words
(`Block.HoldsSession`). The fresh entry may find no round in flight, or a single round awaiting its sensor value, or a single round
awaiting its reference value: that round is then the first of the `k` and lands at index 0. -/
def Obligations.ContinuousSessionFillsTheRing : Prop :=
  ∀ (s : State) (rounds : List (Data × Data)), s.block.fault = false → s.block.cont = false →
    (s.block.phase = false →
      ∃ t, execAll (.startCont :: rounds.flatMap roundOps) s = .next t ∧ s.block.HoldsSession t.block rounds) ∧
    (s.block.running = true → s.block.phase = true → ∀ r : Data,
      ∃ t, execAll (.startCont :: .convDone r :: rounds.flatMap roundOps) s = .next t ∧
        s.block.HoldsSession t.block ((s.block.hold, r) :: rounds))

/-- R34 (f): once a continuous session has wrapped, every word of the buffer was written since its fresh entry. Two runs of the
same operations from a state outside continuous mode, with any two buffer contents, then end in the same block. -/
def Obligations.WrappedSessionHoldsOnlyFreshSamples : Prop :=
  ∀ (s t t' : State) (old : Memory Config.asb1) (ops : List Instr), s.block.cont = false →
    execAll ops s = .next t → execAll ops { s with block := { s.block with mem := old } } = .next t' →
    t.block.cont = true → t.block.wrapped = true → t'.block = t.block

/-- R93, R111, R112, R118, R145: a single-shot reading from rest. The pair lands at the cursor, bit for bit, `ready` rises and the block stops;
`GET_SINGLE` then answers the calibration of that pair and consumes the flag. -/
def Obligations.SingleShotReading : Prop :=
  ∀ (s : State) (a r : Data), s.block.fault = false → s.block.running = false →
    ∃ t, execAll [.startSingle, .convDone a, .convDone r] s = .next t ∧
      t.block.ready = true ∧ t.block.running = false ∧ t.block.cont = false ∧
      (∃ u, exec (.rdSens (BitVec.ofNat _ s.block.cur.val)) t = .next u ∧ u.out.val.toNat = a.toNat) ∧
      (∃ u, exec (.rdRef (BitVec.ofNat _ s.block.cur.val)) t = .next u ∧ u.out.val.toNat = r.toNat) ∧
      ∃ u, exec .getSingle t = .next u ∧ u.block.ready = false ∧ u.out.dz = (calib Config.asb1 a.toNat r.toNat).dz ∧
        u.out.val = BitVec.ofInt _ (calib Config.asb1 a.toNat r.toNat).val

/-- R93, R208: `START_SINGLE` while a round is in flight neither aborts nor arms; the pending round, awaiting its reference value or
still its sensor value, completes, lands its data at the cursor and counts as the single round. -/
def Obligations.StartSingleAdoptsRoundInFlight : Prop :=
  ∀ (s : State) (v r : Data), s.block.fault = false → s.block.running = true →
    ∃ m, exec .startSingle s = .next m ∧ m.out.arm = false ∧ m.out.abort = false ∧ m.block.running = true ∧
      m.block.phase = s.block.phase ∧
      (s.block.phase = true → ∃ t, exec (.convDone r) m = .next t ∧ t.block.ready = true ∧ t.block.running = false ∧
        t.out.arm = false ∧ t.block.mem.read .sens s.block.cur = s.block.hold ∧ t.block.mem.read .ref s.block.cur = r) ∧
      (s.block.phase = false → ∃ t, execAll [.convDone v, .convDone r] m = .next t ∧ t.block.ready = true ∧
        t.block.running = false ∧ t.out.arm = false ∧ t.block.mem.read .sens s.block.cur = v ∧
        t.block.mem.read .ref s.block.cur = r)

/-- R209: after `STOP` or `INIT` a late completion is dropped before the next start; after it, a `START_SINGLE` or a `START_CONT`, it is
latched as the sensor value of the new round, whose own sensor value is then stored as the reference value; its own reference value
is dropped in single mode and, in a continuous session, latched as the next sensor value, so that later pairs stay shifted. -/
def Obligations.LateCompletionHazard : Prop :=
  ∀ (s : State) (i j : Instr) (late own ownRef : Data), s.block.fault = false → i = .stop ∨ i = .init →
    j = .startSingle ∨ j = .startCont →
    ∃ t, exec i s = .next t ∧ (∃ u, exec (.convDone late) t = .next u ∧ u.block = t.block) ∧
      ∃ u, execAll [j, .convDone late] t = .next u ∧ u.block.running = true ∧ u.block.phase = true ∧ u.block.hold = late ∧
        ∃ x, exec (.convDone own) u = .next x ∧ x.block.mem.read .sens u.block.cur = late ∧
          x.block.mem.read .ref u.block.cur = own ∧
          ∃ y, exec (.convDone ownRef) x = .next y ∧ (j = .startSingle → y.block = x.block) ∧
            (j = .startCont → y.block.phase = true ∧ y.block.hold = ownRef)

/-! ### The block with the reference converter (spec/60_exceptions.md R170 to R172) -/

/-- R170: the block and the reference converter agree at reset. -/
def Obligations.SystemInvariantHoldsAtReset : Prop := System.reset.Inv

/-- R170, R171: every move of host, converter or reset pin keeps block and converter in agreement on the round in flight. -/
def Obligations.EveryMoveKeepsSystemInvariant : Prop :=
  ∀ (σ σ' : System) (m : Move), σ.Inv → σ.move m = some σ' → σ'.Inv

/-- R170, R171, U8: with the reference converter no completion is ever dropped, and none is delivered after `STOP` or `INIT`. -/
def Obligations.ReferenceConverterIsNeverSpurious : Prop :=
  (∀ (σ σ' : System) (v : Data), σ.Inv → σ.move (.done v) = some σ' →
    σ.machine.block.running = true ∧ σ.machine.block.fault = false ∧
    (σ.machine.block.phase = false → σ'.machine.block.hold = v ∧ σ'.machine.block.phase = true) ∧
    (σ.machine.block.phase = true → σ'.machine.block.mem.read .ref σ.machine.block.cur = v)) ∧
  ∀ (σ : System) (i : Instr) (v : Data), σ.Inv → i = .stop ∨ i = .init →
    ∃ σ', σ.move (.host i) = some σ' ∧ σ'.move (.done v) = none

/-- R172, R215: with a converter that completes or errors, a single round ends: the completions still owed raise `ready`, and an
error raises `fault`. -/
def Obligations.SingleRoundEnds : Prop :=
  ∀ (σ : System) (v w : Data), σ.Inv → σ.machine.block.running = true → σ.machine.block.cont = false →
    (∃ σ', σ.move .error = some σ' ∧ σ'.machine.faultO = true ∧ σ'.machine.runningO = false) ∧
    (σ.machine.block.phase = true →
      ∃ σ', σ.move (.done w) = some σ' ∧ σ'.machine.readyO = true ∧ σ'.machine.runningO = false) ∧
    (σ.machine.block.phase = false →
      ∃ m σ', σ.move (.done v) = some m ∧ m.move (.done w) = some σ' ∧ σ'.machine.readyO = true ∧
        σ'.machine.runningO = false)

/-! ### The host and its scripts (spec/60_exceptions.md R177, R189; spec/30_encoding.md R80, R81) -/

/-- R189, R177: with thresholds 50 °C and 250 °C, readings of 45 °C then 55 °C move Idle to Active once, which starts continuous
acquisition; 260 °C moves Active to Fault and 240 °C back. -/
def Obligations.PowerModeTransitions : Prop :=
  ∀ th : Thresholds, th = { activation := 50 * 256, ceiling := 250 * 256 } →
    OperatingMode.observe th .idle (calib Config.asb1 2950 2500) = .idle ∧
    OperatingMode.observe th .idle (calib Config.asb1 3050 2500) = .active ∧
    OperatingMode.observe th .active (calib Config.asb1 3050 2500) = .active ∧
    OperatingMode.onTransition .idle .active = [.startCont] ∧
    OperatingMode.observe th .active (calib Config.asb1 2040 1000) = .fault ∧
    OperatingMode.observe th .fault (calib Config.asb1 1960 1000) = .active

/-- R80, R81: script lines and the words they stand for; an operand of 4096 is refused, an index of 8 is accepted. -/
def Obligations.ScriptLinesAssemble : Prop :=
  assemble "ROUND 2457, 0x800".toList = some [Cycle.ofWord 0xC999, Cycle.ofWord 0xC800] ∧
    assemble "FILL 2, 1, 2 # two rounds".toList =
      some [Cycle.ofWord 0xC001, Cycle.ofWord 0xC002, Cycle.ofWord 0xC001, Cycle.ofWord 0xC002] ∧
    assemble "RESET".toList = some [Cycle.resetPulse] ∧ assemble "STOP".toList = some [Cycle.ofWord 0x4000] ∧
    assemble "RD_SENS 8".toList = some [Cycle.ofWord 0xA008] ∧ assemble "CONV_DONE 4096".toList = none

/-! ### Every configuration (spec/00_scope.md R6, R7, R10) -/

/-- R10, R82, R168, R217: the machine is the block of every configuration, at ASB-1: the decoder, each operation (block and outputs),
and the steps of one clock cycle, with their records in order. The model's own choices: how a cycle is taken off `inputs` (log
entries 2, 7), and that a cycle which presents nothing is a step (log entry 3). -/
def Obligations.MachineIsTheBlockAtAsb1 : Prop :=
  (∀ w : OpWord, (decode w).toOp = Op.decode (c := Config.asb1) w) ∧
    (∀ (i : Instr) (s : State),
      exec i s = .next { s with block := (stepOp s.block i.toOp).1, out := (stepOp s.block i.toOp).2 }) ∧
    ∀ (s : State) (x : Cycle Config.asb1) (rest : List (Cycle Config.asb1)), s.inputs = x :: rest →
      ∃ t, Sys2Proof.core.run x.steps s = .next t ∧ t.inputs = rest ∧ t.block = (s.block.cycle x).1 ∧
        (x.rst = true ∨ x.evValid = true ∨ x.cmdValid = true → traceFrom x.steps s = (s.block.cycle x).2)

/-- R82, for every configuration: decoding the encoding of an operation gives it back (an illegal operation with a reserved code), and
encoding what a word decodes to gives the word with its ignored data bits cleared. -/
def Obligations.EveryConfigurationDecodesItsWords : Prop :=
  ∀ c : Config, (∀ o : Op c, o.isDecoded = true → Op.decode o.encode = o) ∧
    ∀ w : BitVec (4 + c.w), (Op.decode w).isDecoded = true ∧
      (Op.decode w).encode.toNat = (if w.toNat / 2 ^ c.w ∈ [10, 11, 12] then w.toNat else w.toNat / 2 ^ c.w * 2 ^ c.w)

/-- R34 (a), (b), (c), (e), (g), for every configuration: they hold at reset, and every operation and every clock cycle keeps
them. -/
def Obligations.EveryConfigurationKeepsInvariant : Prop :=
  ∀ c : Config, (Block.reset c).Inv ∧ ∀ b : Block c, b.Inv →
    (∀ o : Op c, (stepOp b o).1.Inv) ∧ ∀ x : Cycle c, (b.cycle x).1.Inv

/-! ### Runs (spec/60_exceptions.md R172; spec/70_reset_and_hazards.md R203, R215, R217) -/

/-- R217, R203: a run begins with one reset step, whose record, all 0, is the first of its trace; the trace has one record per step;
the run ends with nothing left to present; and trace and end state do not depend on the state before the reset step. That a script's
own leading `RESET` is that step is the model's choice (DESIGN CHOICE, log entry 19). -/
def Obligations.RunBeginsWithResetStep : Prop :=
  ∀ cs : List (Cycle Config.asb1), (trace cs).length = runLength cs ∧ (trace cs).head? = some Outputs.zero ∧
    (∃ t, endState cs = .next t ∧ t.inputs = []) ∧
    ∀ s : State, traceFrom (runLength cs) (s.startRun cs) = trace cs ∧
      Sys2Proof.core.run (runLength cs) (s.startRun cs) = endState cs

/-- R172, R215: in a run with a fair converter, once a round is in flight and only moves that leave the session alone follow, a single
round ends with `ready` or `fault` risen and nothing in flight, and in a continuous session `ready` or `fault` rises. -/
def Obligations.FairConverterEndsTheWait : Prop :=
  ∀ (σ : Nat → System) (m : Nat → Move), System.IsRun σ m → (σ 0).Inv → ConverterFair σ m →
    ∀ n, (σ n).machine.runningO = true → (∀ k, n ≤ k → (m k).leavesSession = true) →
      ∃ k, n < k ∧ ((σ k).machine.readyO = true ∨ (σ k).machine.faultO = true) ∧
        ((σ n).machine.block.cont = false → (σ k).machine.runningO = false)

/-- R172, R215: without the converter the block waits: whatever the host issues but `STOP` and `INIT`, however long, `running`
stays 1; each of those two ends the wait at once, unless the block is faulted. -/
def Obligations.BlockWaitsWithoutConverter : Prop :=
  ∀ s : State, s.block.running = true →
    (∀ ops : List Instr, (∀ i ∈ ops, i.port ≠ .event ∧ i ≠ .stop ∧ i ≠ .init) →
      ∃ t, execAll ops s = .next t ∧ t.runningO = true) ∧
    (s.block.fault = false → ∀ i, i = .stop ∨ i = .init → ∃ t, exec i s = .next t ∧ t.runningO = false)

/-! ### The host's loop (spec/60_exceptions.md R175, R177, R178, R189) -/

/-- R177, R175, with an activation threshold not above the ceiling and a reading that is not degenerate: with a fresh result, Idle
goes to Active from the threshold on and continuous acquisition begins at cursor 0; Active goes to Idle below the threshold and
single-shot acquisition begins, and to Fault above the ceiling; Fault goes to Active below the ceiling; otherwise the mode stays.
Idle and Fault decide by the last pair, Active by the average. Without a fresh result no mode moves. The model's
own choices, log entry 14: fresh means `ready = 1` (DEDUCED from R24 and R175, for R177 gives no test of it); no transition issues
`STOP`, so Active to Fault leaves the block unchanged (DESIGN CHOICE: R177 and N4 of spec/91_not_in_source.md leave open which mode
transitions call it); reading, move and start fall in one tick, at which R178's minimum inter-sample interval has elapsed (DESIGN
CHOICE: the source gives the interval no value, N18). -/
def Obligations.PowerModeFollowsFreshReadings : Prop :=
  ∀ (th : Thresholds) (x : Controlled), th.activation ≤ th.ceiling → x.machine.faultO = false →
    (x.machine.readyO = false → ∃ y, x.tick th = some y ∧ y.mode = x.mode) ∧
    (x.machine.readyO = true →
      (x.mode = .idle → x.machine.block.lastReading.dz = false → x.machine.block.cont = false →
        ∃ y, x.tick th = some y ∧
          (th.activation ≤ x.machine.block.lastReading.val → y.mode = .active ∧ y.machine.runningO = true ∧
            y.machine.block.cont = true ∧ y.machine.block.cur.val = 0) ∧
          (x.machine.block.lastReading.val < th.activation → y.mode = .idle ∧ y.machine.readyO = false)) ∧
      (x.mode = .active → x.machine.block.averageReading.dz = false →
        ∃ y, x.tick th = some y ∧
          (x.machine.block.averageReading.val < th.activation → y.mode = .idle ∧ y.machine.runningO = true ∧
            y.machine.block.cont = false ∧ y.machine.readyO = false) ∧
          (th.ceiling < x.machine.block.averageReading.val → y.mode = .fault ∧ y.machine.block = x.machine.block) ∧
          (th.activation ≤ x.machine.block.averageReading.val → x.machine.block.averageReading.val ≤ th.ceiling →
            y.mode = .active ∧ y.machine.block = x.machine.block)) ∧
      (x.mode = .fault → x.machine.block.lastReading.dz = false →
        ∃ y, x.tick th = some y ∧ y.machine.readyO = false ∧
          (x.machine.block.lastReading.val < th.ceiling → y.mode = .active) ∧
          (th.ceiling ≤ x.machine.block.lastReading.val → y.mode = .fault)))
end

