-- ==== Sys2Proof/Laws/Memory.lean ====
section
/-!
SUPPORT. Memory laws: reads after writes, and that a memory is determined by its reads (spec/20_memory.md R50 to R55).
-/

namespace Sys2Proof.Machine

variable {c : Config}

theorem Memory.read_write_same (m : Memory c) (sp : Space) (i : Fin c.n) (v : BitVec c.w) :
    (m.write sp i v).read sp i = v := by
  cases sp <;> simp [Memory.write, Memory.read, Memory.array]

theorem Memory.read_write_other_index (m : Memory c) (sp : Space) {i j : Fin c.n} (v : BitVec c.w) (h : j ≠ i) :
    (m.write sp i v).read sp j = m.read sp j := by
  have h' : i.val ≠ j.val := fun e => h (Fin.ext e.symm)
  cases sp <;> simp [Memory.write, Memory.read, Memory.array, h']

theorem Memory.read_write_other_space (m : Memory c) {sp sp' : Space} (i j : Fin c.n) (v : BitVec c.w) (h : sp' ≠ sp) :
    (m.write sp i v).read sp' j = m.read sp' j := by
  cases sp <;> cases sp' <;> first | exact absurd rfl h | rfl

/-- Everything the store of a pair does (R33): both words at its index, every other word as before. -/
theorem Memory.read_writePair (m : Memory c) (i : Fin c.n) (s r : BitVec c.w) :
    (m.writePair i s r).read .sens i = s ∧ (m.writePair i s r).read .ref i = r ∧
      ∀ sp j, j ≠ i → (m.writePair i s r).read sp j = m.read sp j := by
  refine ⟨?_, Memory.read_write_same _ _ _ _, ?_⟩
  · rw [Memory.writePair, Memory.read_write_other_space _ _ _ _ (by decide), Memory.read_write_same]
  · intro sp j h
    have first := fun sp' => Memory.read_write_other_index m sp' (i := i) s h
    cases sp
    · rw [Memory.writePair, Memory.read_write_other_space _ _ _ _ (by decide), first]
    · rw [Memory.writePair, Memory.read_write_other_index _ _ _ h,
        Memory.read_write_other_space _ _ _ _ (by decide)]

theorem Memory.read_zero (sp : Space) (i : Fin c.n) : (Memory.zero : Memory c).read sp i = 0 := by
  cases sp <;> simp [Memory.zero, Memory.read, Memory.array]

/-- One representation for each content: memories that read alike are equal. -/
theorem Memory.ext_of_read {m m' : Memory c} (h : ∀ sp i, m.read sp i = m'.read sp i) : m = m' := by
  obtain ⟨s, r⟩ := m
  obtain ⟨s', r'⟩ := m'
  have hs : s = s' := Vector.ext fun i hi => h .sens ⟨i, hi⟩
  have hr : r = r' := Vector.ext fun i hi => h .ref ⟨i, hi⟩
  rw [hs, hr]

/-- Every memory has the form, so every memory operation keeps it. -/
theorem Memory.wf_all (m : Memory c) : m.wf := by simp [Memory.wf]

theorem Memory.wf_write (m : Memory c) (sp : Space) (i : Fin c.n) (v : BitVec c.w) : (m.write sp i v).wf :=
  Memory.wf_all _

theorem Memory.wf_zero : (Memory.zero : Memory c).wf := Memory.wf_all _

/-- The form of the reset state's memory. -/
theorem State.reset_mem_wf : State.reset.block.mem.wf := Memory.wf_all _

/-- A direct read is legal exactly below `N` (R77, R134). -/
theorem directIndex_cases (data : BitVec c.w) :
    (∃ h : data.toNat < c.n, directIndex data = some (⟨data.toNat, h⟩ : Fin c.n)) ∨
      (c.n ≤ data.toNat ∧ (directIndex data : Option (Fin c.n)) = none) := by
  by_cases h : data.toNat < c.n
  · exact .inl ⟨h, by simp [directIndex, h]⟩
  · exact .inr ⟨by omega, by simp [directIndex, h]⟩

theorem nextIndex_val (i : Fin c.n) : (nextIndex i).val = (i.val + 1) % c.n := rfl

theorem lastIndex_val (i : Fin c.n) : (lastIndex i).val = (i.val + c.n - 1) % c.n := rfl

/-- The index read by `GET_SINGLE` is the one the last completed round wrote (R145, R30). -/
theorem lastIndex_nextIndex (i : Fin c.n) : lastIndex (nextIndex i) = i := by
  apply Fin.ext
  rw [lastIndex_val, nextIndex_val]
  have hi := i.isLt
  by_cases h : i.val + 1 = c.n
  · rw [h, Nat.mod_self, Nat.zero_add, Nat.mod_eq_of_lt (by omega)]; omega
  · rw [Nat.mod_eq_of_lt (by omega : i.val + 1 < c.n), show i.val + 1 + c.n - 1 = i.val + c.n by omega,
      Nat.add_mod_right, Nat.mod_eq_of_lt hi]

end Sys2Proof.Machine
end

