-- ==== Sys2Proof/Laws/AnyConfig.lean ====
section
/-!
SUPPORT. AnyConfig laws: what the operation map of any width and the operations of ASB-1 have in common, and the steps of a cycle.
-/

namespace Sys2Proof.Machine

variable {c : Config}

/-- Everything the operation map of R72 does: the code comes back, the operand where there is one, and no code is lost. -/
theorem Op.ofFields_spec (op : OpCode) (data : BitVec c.w) :
    (Op.ofFields op data : Op c).code = op ∧ (Op.ofFields op data : Op c).isDecoded = true ∧
      (Op.ofFields op data : Op c).data = if op.toNat ∈ [10, 11, 12] then data else 0 := by
  obtain ⟨⟨n, hn⟩⟩ := op
  have hn : n < 16 := hn
  interval_cases n <;> exact ⟨rfl, rfl, rfl⟩

/-- The decoder of ASB-1 is the operation map of R72. -/
theorem decodeFields_toOp (op : OpCode) (data : Data) :
    (decodeFields op data).toOp = (Op.ofFields op data : Op Config.asb1) := by
  obtain ⟨⟨n, hn⟩⟩ := op
  have hn : n < 16 := hn
  interval_cases n <;> rfl

theorem eventOp_toOp (err : Bool) (data : Data) : (eventOp err data).toOp = if err then .convErr else .convDone data := by
  cases err <;> rfl

@[simp] theorem performAll_nil (b : Block c) : performAll b [] = (b, []) := rfl

@[simp] theorem performAll_cons (b : Block c) (o : Op c) (os : List (Op c)) :
    performAll b (o :: os) = ((performAll (stepOp b o).1 os).1, (stepOp b o).2 :: (performAll (stepOp b o).1 os).2) := rfl

/-- One record per operation (R217). -/
theorem performAll_length (b : Block c) (os : List (Op c)) : (performAll b os).2.length = os.length := by
  induction os generalizing b with
  | nil => rfl
  | cons o os ih => simp [ih]

end Sys2Proof.Machine
end

