-- ==== Sys2Proof/Laws/State.lean ====
section
/-!
SUPPORT. State laws: the widths of ASB-1, and one lemma per field of each update of the state.
-/

namespace Sys2Proof

/-! ### ASB-1 (spec/00_scope.md R6) -/

theorem Config.asb1_n : Config.asb1.n = 8 := rfl
theorem Config.asb1_w : Config.asb1.w = 12 := rfl
theorem Config.asb1_ln : Config.asb1.ln = 3 := by decide
theorem Config.asb1_tw : Config.asb1.tw = 32 := by decide
theorem Config.asb1_scale : Config.asb1.scale = 64000 := by decide
theorem Config.asb1_tmin : Config.asb1.tmin = -2147483648 := by decide

/-! The same for `simp`, which unfolds `Config.asb1` to its parameters first. -/

@[simp] theorem Params.asb1_ln : Params.ln { n := 8, w := 12, g := 250, f := 8 } = 3 := by decide
@[simp] theorem Params.asb1_tw : Params.tw { n := 8, w := 12, g := 250, f := 8 } = 32 := by decide
@[simp] theorem Params.asb1_scale : Params.scale { n := 8, w := 12, g := 250, f := 8 } = 64000 := by decide
@[simp] theorem Params.asb1_tmin : Params.tmin { n := 8, w := 12, g := 250, f := 8 } = -2147483648 := by decide

end Sys2Proof

namespace Sys2Proof.Machine

theorem Block.cur_lt (b : Block Config.asb1) : b.cur.val < 8 := b.cur.isLt

theorem Data.toNat_lt (v : Data) : v.toNat < 4096 := v.isLt

variable {c : Config}

/-! ### Outputs (spec/30_encoding.md R78) -/

@[simp] theorem Outputs.zero_val : (Outputs.zero : Outputs c).val = 0 := rfl
@[simp] theorem Outputs.zero_dz : (Outputs.zero : Outputs c).dz = false := rfl
@[simp] theorem Outputs.zero_ill : (Outputs.zero : Outputs c).ill = false := rfl
@[simp] theorem Outputs.zero_arm : (Outputs.zero : Outputs c).arm = false := rfl
@[simp] theorem Outputs.zero_abort : (Outputs.zero : Outputs c).abort = false := rfl
@[simp] theorem Outputs.value_val (v : BitVec c.tw) : (Outputs.value v).val = v := rfl
@[simp] theorem Outputs.value_dz (v : BitVec c.tw) : (Outputs.value v).dz = false := rfl
@[simp] theorem Outputs.value_ill (v : BitVec c.tw) : (Outputs.value v).ill = false := rfl
@[simp] theorem Outputs.value_arm (v : BitVec c.tw) : (Outputs.value v).arm = false := rfl
@[simp] theorem Outputs.value_abort (v : BitVec c.tw) : (Outputs.value v).abort = false := rfl
@[simp] theorem Outputs.illegal_val : (Outputs.illegal : Outputs c).val = 0 := rfl
@[simp] theorem Outputs.illegal_dz : (Outputs.illegal : Outputs c).dz = false := rfl
@[simp] theorem Outputs.illegal_ill : (Outputs.illegal : Outputs c).ill = true := rfl
@[simp] theorem Outputs.illegal_arm : (Outputs.illegal : Outputs c).arm = false := rfl
@[simp] theorem Outputs.illegal_abort : (Outputs.illegal : Outputs c).abort = false := rfl
@[simp] theorem Outputs.armed_val (p : Bool) : (Outputs.armed p : Outputs c).val = 0 := rfl
@[simp] theorem Outputs.armed_dz (p : Bool) : (Outputs.armed p : Outputs c).dz = false := rfl
@[simp] theorem Outputs.armed_ill (p : Bool) : (Outputs.armed p : Outputs c).ill = false := rfl
@[simp] theorem Outputs.armed_arm (p : Bool) : (Outputs.armed p : Outputs c).arm = p := rfl
@[simp] theorem Outputs.armed_abort (p : Bool) : (Outputs.armed p : Outputs c).abort = false := rfl
@[simp] theorem Outputs.aborted_val (p : Bool) : (Outputs.aborted p : Outputs c).val = 0 := rfl
@[simp] theorem Outputs.aborted_dz (p : Bool) : (Outputs.aborted p : Outputs c).dz = false := rfl
@[simp] theorem Outputs.aborted_ill (p : Bool) : (Outputs.aborted p : Outputs c).ill = false := rfl
@[simp] theorem Outputs.aborted_arm (p : Bool) : (Outputs.aborted p : Outputs c).arm = false := rfl
@[simp] theorem Outputs.aborted_abort (p : Bool) : (Outputs.aborted p : Outputs c).abort = p := rfl
@[simp] theorem CalibResult.outputs_val (r : CalibResult) :
    (r.outputs : Outputs c).val = BitVec.ofInt c.tw r.val := rfl
@[simp] theorem CalibResult.outputs_dz (r : CalibResult) : (r.outputs : Outputs c).dz = r.dz := rfl
@[simp] theorem CalibResult.outputs_ill (r : CalibResult) : (r.outputs : Outputs c).ill = false := rfl
@[simp] theorem CalibResult.outputs_arm (r : CalibResult) : (r.outputs : Outputs c).arm = false := rfl
@[simp] theorem CalibResult.outputs_abort (r : CalibResult) : (r.outputs : Outputs c).abort = false := rfl

/-! ### The machine's updates -/

@[simp] theorem State.complete_block (s : State) (r : Block Config.asb1 × Outputs Config.asb1) :
    (s.complete r).block = r.1 := rfl
@[simp] theorem State.complete_out (s : State) (r : Block Config.asb1 × Outputs Config.asb1) :
    (s.complete r).out = r.2 := rfl
@[simp] theorem State.complete_inputs (s : State) (r : Block Config.asb1 × Outputs Config.asb1) :
    (s.complete r).inputs = s.inputs := rfl
@[simp] theorem State.answerIllegal_block (s : State) : s.answerIllegal.block = s.block := rfl
@[simp] theorem State.answerIllegal_out (s : State) : s.answerIllegal.out = Outputs.illegal := rfl
@[simp] theorem State.answerIllegal_inputs (s : State) : s.answerIllegal.inputs = s.inputs := rfl
@[simp] theorem State.idle_block (s : State) : s.idle.block = s.block := rfl
@[simp] theorem State.idle_out (s : State) : s.idle.out = Outputs.zero := rfl
@[simp] theorem State.idle_inputs (s : State) : s.idle.inputs = s.inputs := rfl
@[simp] theorem State.resetStep_block (s : State) : s.resetStep.block = Block.reset Config.asb1 := rfl
@[simp] theorem State.resetStep_out (s : State) : s.resetStep.out = Outputs.zero := rfl
@[simp] theorem State.resetStep_inputs (s : State) : s.resetStep.inputs = s.inputs := rfl
@[simp] theorem State.withFetchWord_block (s : State) (n w : Nat) : (s.withFetchWord n w).block = s.block := rfl
@[simp] theorem State.withFetchWord_out (s : State) (n w : Nat) : (s.withFetchWord n w).out = s.out := rfl

/-! ### The block's updates -/

@[simp] theorem Block.halt_running (b : Block c) : b.halt.running = false := rfl
@[simp] theorem Block.halt_ready (b : Block c) : b.halt.ready = b.ready := rfl
@[simp] theorem Block.halt_cont (b : Block c) : b.halt.cont = false := rfl
@[simp] theorem Block.halt_phase (b : Block c) : b.halt.phase = false := rfl
@[simp] theorem Block.halt_wrapped (b : Block c) : b.halt.wrapped = b.wrapped := rfl
@[simp] theorem Block.halt_fault (b : Block c) : b.halt.fault = b.fault := rfl
@[simp] theorem Block.halt_cur (b : Block c) : b.halt.cur = b.cur := rfl
@[simp] theorem Block.halt_hold (b : Block c) : b.halt.hold = b.hold := rfl
@[simp] theorem Block.halt_mem (b : Block c) : b.halt.mem = b.mem := rfl
@[simp] theorem Block.enterFault_running (b : Block c) : b.enterFault.running = false := rfl
@[simp] theorem Block.enterFault_ready (b : Block c) : b.enterFault.ready = false := rfl
@[simp] theorem Block.enterFault_cont (b : Block c) : b.enterFault.cont = false := rfl
@[simp] theorem Block.enterFault_phase (b : Block c) : b.enterFault.phase = false := rfl
@[simp] theorem Block.enterFault_wrapped (b : Block c) : b.enterFault.wrapped = b.wrapped := rfl
@[simp] theorem Block.enterFault_fault (b : Block c) : b.enterFault.fault = true := rfl
@[simp] theorem Block.enterFault_cur (b : Block c) : b.enterFault.cur = b.cur := rfl
@[simp] theorem Block.enterFault_hold (b : Block c) : b.enterFault.hold = b.hold := rfl
@[simp] theorem Block.enterFault_mem (b : Block c) : b.enterFault.mem = b.mem := rfl
@[simp] theorem Block.latchSensor_running (b : Block c) (v : BitVec c.w) : (b.latchSensor v).running = b.running := rfl
@[simp] theorem Block.latchSensor_ready (b : Block c) (v : BitVec c.w) : (b.latchSensor v).ready = b.ready := rfl
@[simp] theorem Block.latchSensor_cont (b : Block c) (v : BitVec c.w) : (b.latchSensor v).cont = b.cont := rfl
@[simp] theorem Block.latchSensor_phase (b : Block c) (v : BitVec c.w) : (b.latchSensor v).phase = true := rfl
@[simp] theorem Block.latchSensor_wrapped (b : Block c) (v : BitVec c.w) : (b.latchSensor v).wrapped = b.wrapped := rfl
@[simp] theorem Block.latchSensor_fault (b : Block c) (v : BitVec c.w) : (b.latchSensor v).fault = b.fault := rfl
@[simp] theorem Block.latchSensor_cur (b : Block c) (v : BitVec c.w) : (b.latchSensor v).cur = b.cur := rfl
@[simp] theorem Block.latchSensor_hold (b : Block c) (v : BitVec c.w) : (b.latchSensor v).hold = v := rfl
@[simp] theorem Block.latchSensor_mem (b : Block c) (v : BitVec c.w) : (b.latchSensor v).mem = b.mem := rfl
@[simp] theorem Block.storePair_running (b : Block c) (v : BitVec c.w) : (b.storePair v).running = b.running := rfl
@[simp] theorem Block.storePair_ready (b : Block c) (v : BitVec c.w) : (b.storePair v).ready = b.ready := rfl
@[simp] theorem Block.storePair_cont (b : Block c) (v : BitVec c.w) : (b.storePair v).cont = b.cont := rfl
@[simp] theorem Block.storePair_phase (b : Block c) (v : BitVec c.w) : (b.storePair v).phase = false := rfl
@[simp] theorem Block.storePair_wrapped (b : Block c) (v : BitVec c.w) : (b.storePair v).wrapped = b.wrapped := rfl
@[simp] theorem Block.storePair_fault (b : Block c) (v : BitVec c.w) : (b.storePair v).fault = b.fault := rfl
@[simp] theorem Block.storePair_cur (b : Block c) (v : BitVec c.w) : (b.storePair v).cur = nextIndex b.cur := rfl
@[simp] theorem Block.storePair_hold (b : Block c) (v : BitVec c.w) : (b.storePair v).hold = b.hold := rfl
@[simp] theorem Block.storePair_mem (b : Block c) (v : BitVec c.w) :
    (b.storePair v).mem = b.mem.writePair b.cur b.hold v := rfl

end Sys2Proof.Machine
end

