-- ==== Sys2Proof/Laws/Calib.lean ====
section
/-!
SUPPORT. Calibration laws: the floor of spec/00_scope.md R9, and the derived widths of R6.
-/

namespace Sys2Proof

theorem bitLength_zero (fuel : Nat) : bitLength fuel 0 = 0 := by cases fuel <;> rfl

/-- `bitLength` bounds its number (R6, `GW` and `LN`). -/
theorem lt_two_pow_bitLength {fuel m : Nat} (h : m ≤ fuel) : m < 2 ^ bitLength fuel m := by
  induction fuel generalizing m with
  | zero => simp [bitLength]; omega
  | succ k ih =>
    by_cases hm : m = 0
    · simp [bitLength, hm]
    · have := ih (m := m / 2) (by omega)
      simp only [bitLength, hm, if_false, pow_succ]
      omega

/-- `bitLength` is the least such exponent (R6). -/
theorem two_pow_pred_bitLength_le {fuel m k : Nat} (h : m ≤ fuel) (hk : k < bitLength fuel m) : 2 ^ k ≤ m := by
  induction fuel generalizing m k with
  | zero => simp [bitLength] at hk
  | succ f ih =>
    by_cases hm : m = 0
    · simp [bitLength, hm] at hk
    · simp only [bitLength, hm, if_false] at hk
      cases k with
      | zero => simp; omega
      | succ k =>
        have := ih (m := m / 2) (k := k) (by omega) (by omega)
        rw [pow_succ]
        omega

namespace Machine

/-- The floor of R9: the greatest integer not above the quotient. -/
theorem floorDiv_le_iff {p q z : Int} (hq : 0 < q) : z ≤ floorDiv p q ↔ z * q ≤ p := by
  rw [floorDiv, Int.fdiv_eq_ediv_of_nonneg _ hq.le]
  exact Int.le_ediv_iff_mul_le hq

theorem calib_zero (c : Config) (a : Nat) : calib c a 0 = { dz := true, val := c.tmin } := rfl

theorem calib_pos (c : Config) (a : Nat) {b : Nat} (h : b ≠ 0) :
    calib c a b = { dz := false, val := floorDiv (c.scale * ((a : Int) - b)) b } := by simp [calib, h]

end Machine

end Sys2Proof
end

