-- ==== Sys2Proof/Laws/OpTable.lean ====
section
/-!
SUPPORT. OpTable laws: the opcode table (spec/30_encoding.md R83) and the decoder say the same, for every sample width.
-/

namespace Sys2Proof

/-- The row at place `k` is that of code `k`. -/
theorem opTable_op : opTable.map (fun row => row.op.toNat) = List.range 16 := by decide

/-- A word belongs to a row exactly when its top four bits are the row's code (R70, R83). -/
theorem OpRow.covers_iff (row : OpRow) {w : Nat} (op : OpCode) (data : BitVec w) :
    row.covers (op ++ data : BitVec (4 + w)) = true ↔ op = row.op := by
  have masked : (op ++ data : BitVec (4 + w)) &&& row.maskWord w = op ++ 0#w := by
    rw [OpRow.maskWord, BitVec.and_append, BitVec.and_zero]
    exact congrArg (fun o => (o ++ 0#w : BitVec (4 + w))) (BitVec.and_allOnes (x := op))
  rw [OpRow.covers, masked, OpRow.matchWord, beq_iff_eq]
  refine ⟨fun h => ?_, fun h => by rw [h]⟩
  have top := congrArg (BitVec.extractLsb' w 4) h
  rwa [BitVec.extractLsb'_append_eq_left, BitVec.extractLsb'_append_eq_left] at top

/-- Every word belongs to one row of the table and to no other, and no two rows overlap. -/
theorem opTable_covers_once {w : Nat} (op : OpCode) (data : BitVec w) :
    ∃ row ∈ opTable, rowOf (op ++ data : BitVec (4 + w)) = some row ∧ row.op = op ∧
      ∀ row' ∈ opTable, row'.covers (op ++ data : BitVec (4 + w)) = true → row' = row := by
  have find : ∀ op : OpCode, ∃ row ∈ opTable, opTable.find? (fun r => decide (op = r.op)) = some row ∧ row.op = op ∧
      ∀ row' ∈ opTable, op = row'.op → row' = row := by
    rintro ⟨⟨n, hn⟩⟩
    have hn : n < 16 := hn
    interval_cases n <;> exact ⟨_, by decide, rfl, rfl, by decide +revert⟩
  obtain ⟨row, mem, found, code, only⟩ := find op
  refine ⟨row, mem, ?_, code, fun row' mem' h => only row' mem' ((OpRow.covers_iff row' op data).mp h)⟩
  have same : (fun r : OpRow => r.covers (op ++ data : BitVec (4 + w))) = fun r => decide (op = r.op) :=
    funext fun r => Bool.eq_iff_iff.mpr ((OpRow.covers_iff r op data).trans decide_eq_true_iff.symm)
  rw [rowOf, same, found]

end Sys2Proof

namespace Sys2Proof.Machine

variable {c : Config}

/-- For every configuration: a word belongs to the row of the operation it decodes to (R82, R83). -/
theorem Op.decode_rowOf (w : BitVec (4 + c.w)) : ∃ row ∈ opTable, rowOf w = some row ∧ row.op = (Op.decode w : Op c).code := by
  have parts : w.extractLsb' c.w 4 ++ w.extractLsb' 0 c.w = w := by simp
  obtain ⟨row, mem, found, code, -⟩ := opTable_covers_once (w.extractLsb' c.w 4) (w.extractLsb' 0 c.w)
  rw [parts] at found
  exact ⟨row, mem, found, code.trans (Op.ofFields_spec _ _).1.symm⟩

/-- The port and the operand of a row are those of the operation it stands for (R72, R73). -/
theorem opTable_port_operand (i : Instr) :
    ∃ row, opTable[i.op.toNat]? = some row ∧ row.op = i.op ∧ row.port = i.port ∧ (row.operand ≠ .ignored ↔ hasOperand i.op = true) := by
  cases i <;> exact ⟨_, rfl, rfl, rfl, by simp [hasOperand, Instr.op]⟩

end Sys2Proof.Machine
end

