-- ==== Sys2Proof/Laws/Ops.lean ====
section
/-!
SUPPORT. Ops laws: everything each shared operation can do, and everything one operation or one step can do.
-/

namespace Sys2Proof.Machine

variable {c : Config}

/-- The fault gate (R90): nothing when faulted, otherwise the operation's own effect. -/
theorem Block.gated_cases (b : Block c) (r : Block c × Outputs c) :
    (b.fault = true ∧ b.gated r = (b, Outputs.zero)) ∨ (b.fault = false ∧ b.gated r = r) := by
  cases h : b.fault <;> simp [Block.gated, h]

/-- Beginning a round (R93, R94): nothing while one is in flight, otherwise `running`, `phase` and the `arm` pulse. -/
theorem Block.beginRound_cases (b : Block c) :
    (b.running = true ∧ b.beginRound = (b, Outputs.zero)) ∨
      (b.running = false ∧ b.beginRound = ({ b with running := true, phase := false }, Outputs.armed true)) := by
  cases h : b.running <;> simp [Block.beginRound, h]

/-- Everything `CONV_DONE` can do (R110 to R112). -/
theorem Block.convDone_cases (b : Block c) (v : BitVec c.w) :
    ((b.fault = true ∨ b.running = false) ∧ b.convDone v = (b, Outputs.zero)) ∨
      (b.fault = false ∧ b.running = true ∧ b.phase = false ∧ b.convDone v = (b.latchSensor v, Outputs.zero)) ∨
      (b.fault = false ∧ b.running = true ∧ b.phase = true ∧ b.convDone v = b.finishRound v) := by
  cases hf : b.fault <;> cases hr : b.running <;> cases hp : b.phase <;> simp [Block.convDone, Block.gated, hf, hr, hp]

/-- The two ends of a round (R112). -/
theorem Block.finishRound_cases (b : Block c) (v : BitVec c.w) :
    (b.cont = true ∧ b.finishRound v =
        ({ b.storePair v with
            wrapped := b.wrappedAfter (nextIndex b.cur), ready := b.ready || b.wrappedAfter (nextIndex b.cur) },
          Outputs.armed true)) ∨
      (b.cont = false ∧ b.finishRound v = ({ b.storePair v with ready := true, running := false }, Outputs.zero)) := by
  cases h : b.cont <;> simp [Block.finishRound, h]

/-- A direct read (R134, R135): the word below `N`, the illegal answer from `N` on. -/
theorem Block.directRead_cases (b : Block c) (sp : Space) (data : BitVec c.w) :
    (∃ h : data.toNat < c.n, b.directRead sp data =
        Outputs.value ((b.mem.read sp ⟨data.toNat, h⟩).setWidth c.tw)) ∨
      (c.n ≤ data.toNat ∧ b.directRead sp data = Outputs.illegal) := by
  rcases directIndex_cases data with ⟨h, e⟩ | ⟨h, e⟩
  · exact .inl ⟨h, by simp [Block.directRead, e]⟩
  · exact .inr ⟨h, by simp [Block.directRead, e]⟩

/-- An operation depends on the block alone, changes block and outputs alone, and always completes; its effect is that of the step
function of every configuration, at ASB-1 (R10, R55). -/
theorem exec_eq (i : Instr) (s : State) : exec i s = .next (s.complete (stepOp s.block i.toOp)) := by cases i <;> rfl

/-- Everything one step can do (R10, R168, R200): a reset step, an operation, the wrong-port answer, or an idle cycle. -/
theorem step_cases (s : State) :
    ∃ rest, (fetch s.inputs = (.reset, rest) ∧ step s = .next { s with inputs := rest }.resetStep) ∨
      (∃ i, fetch s.inputs = (.op i, rest) ∧
        step s = .next (({ s with inputs := rest } : State).complete (stepOp s.block i.toOp))) ∨
      (fetch s.inputs = (.wrongPort, rest) ∧ step s = .next { s with inputs := rest }.answerIllegal) ∨
      (fetch s.inputs = (.idle, rest) ∧ step s = .next { s with inputs := rest }.idle) := by
  rcases h : fetch s.inputs with ⟨p, rest⟩
  refine ⟨rest, ?_⟩
  cases p with
  | reset => exact .inl ⟨rfl, by simp only [step, h]⟩
  | op i => exact .inr (.inl ⟨i, rfl, by simp only [step, h, exec_eq]⟩)
  | wrongPort => exact .inr (.inr (.inl ⟨rfl, by simp only [step, h]⟩))
  | idle => exact .inr (.inr (.inr ⟨rfl, by simp only [step, h]⟩))

/-- No step stops (R10). -/
theorem step_total (s : State) : ∃ t, step s = .next t := by
  obtain ⟨rest, ⟨-, h⟩ | ⟨i, -, h⟩ | ⟨-, h⟩ | ⟨-, h⟩⟩ := step_cases s <;> exact ⟨_, h⟩

end Sys2Proof.Machine
end

