-- ==== Sys2Proof/Laws/PerInstr.lean ====
section
/-!
SUPPORT. Per-instruction laws: EncodeFields, that the word of an operation carries its op code in bits 15..12 and its operand in
bits 11..0 (spec/30_encoding.md R70, R77).
-/

namespace Sys2Proof.Laws

theorem extract_append_high {n m : Nat} (x : BitVec n) (y : BitVec m) : BitVec.extractLsb' m n (x ++ y) = x := by
  ext i hi
  simp [BitVec.getElem_extractLsb', BitVec.getLsbD_append, hi]

theorem extract_append_low {n m : Nat} (x : BitVec n) (y : BitVec m) : BitVec.extractLsb' 0 m (x ++ y) = y := by
  ext i hi
  simp [BitVec.getElem_extractLsb', BitVec.getLsbD_append, hi]

theorem opField_joinWord (op : OpCode) (data : Data) : opField (joinWord op data) = op :=
  extract_append_high (n := 4) (m := 12) op data

theorem dataField_joinWord (op : OpCode) (data : Data) : dataField (joinWord op data) = data :=
  extract_append_low (n := 4) (m := 12) op data

/-- The fields of an operation's word are its code and its operand. -/
def EncodeFields.Statement (i : Instr) : Prop := opField (encode i) = i.op ∧ dataField (encode i) = i.data

theorem EncodeFields.of_joinWord (i : Instr) : EncodeFields.Statement i :=
  ⟨opField_joinWord _ _, dataField_joinWord _ _⟩

theorem EncodeFields.nop : EncodeFields.Statement .nop := EncodeFields.of_joinWord _
theorem EncodeFields.init : EncodeFields.Statement .init := EncodeFields.of_joinWord _
theorem EncodeFields.startSingle : EncodeFields.Statement .startSingle := EncodeFields.of_joinWord _
theorem EncodeFields.startCont : EncodeFields.Statement .startCont := EncodeFields.of_joinWord _
theorem EncodeFields.stop : EncodeFields.Statement .stop := EncodeFields.of_joinWord _
theorem EncodeFields.isRunning : EncodeFields.Statement .isRunning := EncodeFields.of_joinWord _
theorem EncodeFields.isReady : EncodeFields.Statement .isReady := EncodeFields.of_joinWord _
theorem EncodeFields.getSingle : EncodeFields.Statement .getSingle := EncodeFields.of_joinWord _
theorem EncodeFields.getAvg : EncodeFields.Statement .getAvg := EncodeFields.of_joinWord _
theorem EncodeFields.rdStatus : EncodeFields.Statement .rdStatus := EncodeFields.of_joinWord _
theorem EncodeFields.rdSens (idx : Data) : EncodeFields.Statement (.rdSens idx) := EncodeFields.of_joinWord _
theorem EncodeFields.rdRef (idx : Data) : EncodeFields.Statement (.rdRef idx) := EncodeFields.of_joinWord _
theorem EncodeFields.convDone (v : Data) : EncodeFields.Statement (.convDone v) := EncodeFields.of_joinWord _
theorem EncodeFields.convErr : EncodeFields.Statement .convErr := EncodeFields.of_joinWord _
theorem EncodeFields.reservedE : EncodeFields.Statement .reservedE := EncodeFields.of_joinWord _
theorem EncodeFields.reservedF : EncodeFields.Statement .reservedF := EncodeFields.of_joinWord _

end Sys2Proof.Laws
end

