-- ==== Sys2Proof/Laws/Run.lean ====
section
/-!
SUPPORT. Run laws: runs, traces and sequences of operations step by step, and that none of them stops (spec/00_scope.md R10).
-/

namespace Sys2Proof.Machine

@[simp] theorem core_run_zero (s : State) : Sys2Proof.core.run 0 s = .next s := rfl

theorem core_run_succ {s t : State} (k : Nat) (h : step s = .next t) :
    Sys2Proof.core.run (k + 1) s = Sys2Proof.core.run k t := by
  have h' : Sys2Proof.core.step s = Host.Outcome.next t := h
  simp only [Host.Core.run]
  rw [h']

theorem core_run_total (k : Nat) (s : State) : ∃ t, Sys2Proof.core.run k s = .next t := by
  induction k generalizing s with
  | zero => exact ⟨s, rfl⟩
  | succ k ih =>
    obtain ⟨t, h⟩ := step_total s
    rw [core_run_succ k h]
    exact ih t

theorem traceFrom_succ {s t : State} (k : Nat) (h : step s = .next t) : traceFrom (k + 1) s = t.out :: traceFrom k t := by
  simp only [traceFrom, h]

/-- "One per step" (R217). -/
theorem traceFrom_length (k : Nat) (s : State) : (traceFrom k s).length = k := by
  induction k generalizing s with
  | zero => rfl
  | succ k ih =>
    obtain ⟨t, h⟩ := step_total s
    rw [traceFrom_succ k h, List.length_cons, ih]

@[simp] theorem execAll_nil (s : State) : execAll [] s = .next s := rfl

@[simp] theorem execAll_cons (i : Instr) (is : List Instr) (s : State) :
    execAll (i :: is) s = execAll is (s.complete (stepOp s.block i.toOp)) := by simp only [execAll, exec_eq]

theorem execAll_append (is js : List Instr) {s t : State} (h : execAll is s = .next t) :
    execAll (is ++ js) s = execAll js t := by
  induction is generalizing s with
  | nil => cases h; rfl
  | cons i is ih =>
    rw [List.cons_append, execAll_cons]
    exact ih (by rwa [execAll_cons] at h)

theorem execAll_total (is : List Instr) (s : State) : ∃ t, execAll is s = .next t := by
  induction is generalizing s with
  | nil => exact ⟨s, rfl⟩
  | cons i is ih => rw [execAll_cons]; exact ih _

/-- Everything a move of the system can do: reset, or one operation and then the converter obeying its pulses (R170). -/
theorem System.move_cases {σ σ' : System} {m : Move} (h : σ.move m = some σ') :
    (m = .reset ∧ σ' = { machine := σ.machine.resetStep, owed := 0 }) ∨
      ∃ i owed, ((m = .host i ∧ i.port ≠ .event ∧ owed = σ.owed) ∨
          (∃ v, m = .done v ∧ i = .convDone v ∧ σ.owed ≠ 0 ∧ owed = σ.owed - 1) ∨
          (m = .error ∧ i = .convErr ∧ σ.owed ≠ 0 ∧ owed = 0)) ∧
        σ' = { machine := σ.machine.complete (stepOp σ.machine.block i.toOp)
               owed := owedAfter (stepOp σ.machine.block i.toOp).2 owed } := by
  cases m with
  | reset => exact .inl ⟨rfl, (Option.some.inj h).symm⟩
  | host i =>
    by_cases hp : i.port = .event
    · simp [System.move, hp] at h
    · simp only [System.move, hp, if_false, System.perform, exec_eq, Option.some.injEq] at h
      exact .inr ⟨i, _, .inl ⟨rfl, hp, rfl⟩, h.symm⟩
  | done v =>
    by_cases ho : σ.owed = 0
    · simp [System.move, ho] at h
    · simp only [System.move, ho, if_false, System.perform, exec_eq, Option.some.injEq] at h
      exact .inr ⟨_, _, .inr (.inl ⟨v, rfl, rfl, ho, rfl⟩), h.symm⟩
  | error =>
    by_cases ho : σ.owed = 0
    · simp [System.move, ho] at h
    · simp only [System.move, ho, if_false, System.perform, exec_eq, Option.some.injEq] at h
      exact .inr ⟨_, _, .inr (.inr ⟨rfl, rfl, ho, rfl⟩), h.symm⟩

/-- Issuing operations never stops the controller, and leaves its mode. -/
theorem Controlled.issue_eq (x : Controlled) (ops : List Instr) :
    ∃ t, execAll ops x.machine = .next t ∧ x.issue ops = some { x with machine := t } := by
  obtain ⟨t, h⟩ := execAll_total ops x.machine
  exact ⟨t, h, by simp only [Controlled.issue, h]⟩

end Sys2Proof.Machine
end

