-- ==== Sys2Proof/Tests/Slice0.lean ====
section
/-!
SUPPORT. Tests: expected results are from spec/95_test_vectors.md (the vector's name stands in each test's comment) and the rules; the
witnesses show for each statement with hypotheses that they can be met.
-/

namespace Sys2Proof.Tests

open Sys2Proof.Machine

/-! ### Helpers -/

/-- A state with the given block, nothing presented. -/
def at0 (b : Block Config.asb1) : State := { State.reset with block := b }

/-- The reset block. -/
def b0 : Block Config.asb1 := Block.reset Config.asb1

/-- Block and outputs after one operation on a block. -/
def after (i : Instr) (b : Block Config.asb1) : Option (Block Config.asb1 × Outputs Config.asb1) :=
  match exec i (at0 b) with
  | .next t => some (t.block, t.out)
  | .fault _ => none
  | .refused _ => none

/-- Block and outputs after one step on one cycle. -/
def afterCycle (x : Cycle Config.asb1) (b : Block Config.asb1) : Option (Block Config.asb1 × Outputs Config.asb1) :=
  match step { at0 b with inputs := [x] } with
  | .next t => some (t.block, t.out)
  | .fault _ => none
  | .refused _ => none

/-- All outputs 0. -/
def quiet : Outputs Config.asb1 := Outputs.zero

/-- An answer. -/
def answer (v : Nat) : Outputs Config.asb1 := { quiet with val := BitVec.ofNat _ v }

/-- A buffer with one pair at one index, the rest 0. -/
def pairAt (k : Fin 8) (s r : Nat) : Memory Config.asb1 := Memory.zero.writePair k (BitVec.ofNat _ s) (BitVec.ofNat _ r)

/-- A buffer of identical pairs. -/
def filled (s r : Nat) : Memory Config.asb1 :=
  { sens := .replicate _ (BitVec.ofNat _ s), ref := .replicate _ (BitVec.ofNat _ r) }

/-! ### WellFormed (spec/00_scope.md R6, R7; spec/30_encoding.md R80) -/

theorem test_refuses_no_entry : (Params.config? { n := 0, w := 12, g := 250, f := 8 }) = none := by decide

theorem test_refuses_index_wider_than_data : (Params.config? { n := 5, w := 2, g := 250, f := 8 }) = none := by decide

theorem test_refuses_no_sample_bit : (Params.config? { n := 1, w := 0, g := 250, f := 8 }) = none := by decide

theorem test_refuses_status_wider_than_answer : (Params.config? { n := 2, w := 1, g := 1, f := 0 }) = none := by decide

theorem test_accepts_asb1 : (Params.config? { n := 8, w := 12, g := 250, f := 8 }) = some Config.asb1 := by decide

theorem test_operand_fits : operandFits Config.asb1 4095 = true ∧ operandFits Config.asb1 4096 = false := by decide

/-- The ASB-1 column of R6. -/
theorem test_asb1_derived : Config.asb1.ln = 3 ∧ Config.asb1.gw = 8 ∧ Config.asb1.tw = 32 ∧ Config.asb1.tmin = -2147483648 := by
  decide

/-! ### Decode: words written out bit by bit from R70, R72 -/

theorem test_decode_nop_ignored_bits : decode 0b0000101010111100 = .nop := by decide
theorem test_decode_init : decode 0b0001000000000000 = .init := by decide
theorem test_decode_start_single : decode 0b0010000000000000 = .startSingle := by decide
theorem test_decode_start_cont : decode 0b0011000000000000 = .startCont := by decide
theorem test_decode_stop : decode 0b0100000000000000 = .stop := by decide
theorem test_decode_is_running : decode 0b0101000000000000 = .isRunning := by decide
theorem test_decode_is_ready : decode 0b0110000000000000 = .isReady := by decide
theorem test_decode_get_single : decode 0b0111000000000000 = .getSingle := by decide
theorem test_decode_get_avg : decode 0b1000000000000000 = .getAvg := by decide
theorem test_decode_rd_status : decode 0b1001000000000000 = .rdStatus := by decide
theorem test_decode_rd_sens : decode 0b1010000000000111 = .rdSens 7 := by decide
theorem test_decode_rd_ref : decode 0b1011111111111111 = .rdRef 4095 := by decide
theorem test_decode_conv_done : decode 0b1100100110011001 = .convDone 2457 := by decide
theorem test_decode_conv_err_ignored_bits : decode 0b1101000100100011 = .convErr := by decide
theorem test_decode_reserved_e : decode 0b1110000000000000 = .reservedE := by decide
theorem test_decode_reserved_f : decode 0b1111111111111111 = .reservedF := by decide
theorem test_encode_rd_sens : encode (.rdSens 7) = 0xA007 := by decide
theorem test_table_word : decodeTableWord 16 0xC999 = some (.convDone 2457) := by decide
theorem test_first_step_after_reset :
    (match step (State.reset.withFetchWord 16 0x2000) with | .next t => t.out.arm | _ => false) = true := by decide

/-! ### The opcode table: the strings of spec/opcode_table.json (R83) -/

/-- `match` and `mask` of all sixteen rows. -/
theorem test_table_match_mask :
    opTable.map (fun row => (row.matchWord 12).toNat) =
      [0x0000, 0x1000, 0x2000, 0x3000, 0x4000, 0x5000, 0x6000, 0x7000] ++
        [0x8000, 0x9000, 0xA000, 0xB000, 0xC000, 0xD000, 0xE000, 0xF000] ∧
    ∀ row ∈ opTable, (row.maskWord 12).toNat = 0xF000 := by decide

/-- `encoding` of one row of each kind, and `CONV_DONE` with `W = 10`, narrower on the right. -/
theorem test_table_encoding :
    (opTable.map fun row => row.encoding 12)[5]? = some "0101xxxxxxxxxxxx".toList ∧
    (opTable.map fun row => row.encoding 12)[10]? = some "1010iiiiiiiiiiii".toList ∧
    (opTable.map fun row => row.encoding 12)[12]? = some "1100vvvvvvvvvvvv".toList ∧
    (opTable.map fun row => row.encoding 10)[12]? = some "1100vvvvvvvvvv".toList := by decide

/-- The row of a word: `RD_SENS 7` with `W = 12`, and the same operation with `W = 10`. -/
theorem test_row_of_word :
    (rowOf (0xA007 : BitVec (4 + 12))).map OpRow.mnemonic = some "RD_SENS" ∧
    (rowOf (0x2807 : BitVec (4 + 10))).map (fun row => (row.mnemonic, row.fields 10)) =
      some ("RD_SENS", [("op", 13, 10), ("idx", 9, 0)]) := by decide

/-! ### Control commands -/

/-- VC2 -/
theorem test_init_aborts : after .init { b0 with
    running := true, ready := true, cont := true, phase := true, wrapped := true, cur := ⟨5, by decide⟩, hold := 77
    mem := pairAt 0 9 4 } = some (b0, { quiet with abort := true }) := by decide

/-- VC3 -/
theorem test_init_faulted : after .init { b0 with fault := true, mem := pairAt 0 9 4 } =
    some ({ b0 with fault := true, mem := pairAt 0 9 4 }, quiet) := by decide

/-- VC4 -/
theorem test_start_single_arms : after .startSingle { b0 with ready := true, cur := ⟨3, by decide⟩ } =
    some ({ b0 with running := true, cur := ⟨3, by decide⟩ }, { quiet with arm := true }) := by decide

/-- VC6 -/
theorem test_start_single_in_session :
    after .startSingle { b0 with running := true, ready := true, cont := true, phase := true, wrapped := true } =
      some ({ b0 with running := true, phase := true, wrapped := true }, quiet) := by decide

/-- VC7 -/
theorem test_start_cont_fresh : after .startCont { b0 with ready := true, wrapped := true, cur := ⟨5, by decide⟩ } =
    some ({ b0 with running := true, cont := true }, { quiet with arm := true }) := by decide

/-- VC8 -/
theorem test_start_cont_adopts :
    after .startCont { b0 with running := true, phase := true, hold := 5, cur := ⟨2, by decide⟩ } =
      some ({ b0 with running := true, cont := true, phase := true, hold := 5 }, quiet) := by decide

/-- VC10 -/
theorem test_stop_keeps_ready :
    after .stop { b0 with running := true, ready := true, cont := true, phase := true, wrapped := true, hold := 7 } =
      some ({ b0 with ready := true, wrapped := true, hold := 7 }, { quiet with abort := true }) := by decide

/-- VC11 -/
theorem test_stop_idle : after .stop { b0 with ready := true } = some ({ b0 with ready := true }, quiet) := by decide

/-- VC13 -/
theorem test_nop : after .nop { b0 with fault := true, hold := 3 } = some ({ b0 with fault := true, hold := 3 }, quiet) := by
  decide

/-! ### Converter events -/

/-- VE3 -/
theorem test_conv_done_single :
    after (.convDone 0x800) { b0 with running := true, phase := true, hold := 0x999, cur := ⟨7, by decide⟩ } =
      some ({ b0 with ready := true, hold := 0x999, mem := pairAt 7 0x999 0x800 }, quiet) := by decide

/-- VE4 -/
theorem test_conv_done_wraps :
    after (.convDone 0x800) { b0 with running := true, cont := true, phase := true, hold := 0x999, cur := ⟨7, by decide⟩ } =
      some ({ b0 with running := true, cont := true, ready := true, wrapped := true, hold := 0x999, mem := pairAt 7 0x999 0x800 },
        { quiet with arm := true }) := by decide

/-- VE9 -/
theorem test_conv_err :
    after .convErr { b0 with
      running := true, ready := true, cont := true, phase := true, wrapped := true, cur := ⟨4, by decide⟩, hold := 8 } =
      some ({ b0 with wrapped := true, fault := true, cur := ⟨4, by decide⟩, hold := 8 }, quiet) := by decide

/-- VE10 -/
theorem test_conv_err_idle : after .convErr { b0 with ready := true } = some ({ b0 with fault := true }, quiet) := by decide

/-- VE12, a build with `N = 1` (R112 corner case 2) -/
theorem test_one_entry_build :
    let c : Config := ⟨{ n := 1, w := 12, g := 250, f := 8 }, by decide⟩
    (Block.convDone { Block.reset c with running := true, cont := true, phase := true, hold := 1 } 2).1.ready = true := by
  decide

/-! ### Reads -/

/-- VS2 -/
theorem test_is_running : (after .isRunning { b0 with running := true, phase := true }).map Prod.snd = some (answer 1) := by decide

/-- VS3 -/
theorem test_is_ready : (after .isReady { b0 with running := true, ready := true, cont := true }).map Prod.snd = some (answer 1) := by
  decide

/-- VS6 -/
theorem test_rd_status_session : (after .rdStatus { b0 with
    running := true, ready := true, cont := true, wrapped := true, cur := ⟨3, by decide⟩ }).map Prod.snd =
    some (answer 0x397) := by decide

/-- VS7 -/
theorem test_rd_status_fault :
    (after .rdStatus { b0 with fault := true, cur := ⟨4, by decide⟩ }).map Prod.snd = some (answer 0x420) := by decide

/-- VS11 -/
theorem test_rd_sens : (after (.rdSens 7) { b0 with mem := pairAt 7 0x999 0 }).map Prod.snd = some (answer 0x999) := by decide

/-- VS13 -/
theorem test_rd_sens_illegal : (after (.rdSens 8) b0).map Prod.snd = some { quiet with ill := true } := by decide

/-- VS12 -/
theorem test_rd_ref : (after (.rdRef 0) { b0 with mem := pairAt 0 0 0xFFF }).map Prod.snd = some (answer 0xFFF) := by decide

/-- VS13 -/
theorem test_rd_ref_illegal : (after (.rdRef 0xFFF) b0).map Prod.snd = some { quiet with ill := true } := by decide

/-- VS15 -/
theorem test_reserved_e : after .reservedE { b0 with running := true } = some ({ b0 with running := true }, { quiet with ill := true }) := by
  decide

/-- VS15 -/
theorem test_reserved_f : after .reservedF { b0 with fault := true } = some ({ b0 with fault := true }, { quiet with ill := true }) := by
  decide

/-- VS16: word 0xD000 presented on the host port -/
theorem test_host_port_event_code :
    afterCycle { Cycle.quiet with cmdValid := true, cmdOp := 0xD } { b0 with running := true } =
      some ({ b0 with running := true }, { quiet with ill := true }) := by decide

/-! ### The getters and `calib` -/

/-- VG7 -/
theorem test_get_single_not_hold :
    after .getSingle { b0 with running := true, phase := true, hold := 4000, cur := ⟨1, by decide⟩, mem := pairAt 0 2000 2048 } =
      some ({ b0 with running := true, phase := true, hold := 4000, cur := ⟨1, by decide⟩, mem := pairAt 0 2000 2048 },
        answer 0xFFFFFA24) := by decide

/-- VG11 -/
theorem test_get_single_zero_reference :
    after .getSingle { b0 with ready := true, cur := ⟨3, by decide⟩, mem := pairAt 2 7 0 } =
      some ({ b0 with cur := ⟨3, by decide⟩, mem := pairAt 2 7 0 }, { answer 0x80000000 with dz := true }) := by decide

/-- VG4 -/
theorem test_get_avg : after .getAvg { b0 with ready := true, mem := filled 2457 2048 } =
    some ({ b0 with ready := true, mem := filled 2457 2048 }, answer 0x31ED) := by decide

/-- VG10 -/
theorem test_get_avg_maximum :
    (after .getAvg { b0 with mem := (filled 4095 0).write .ref ⟨0, by decide⟩ 1 }).map Prod.snd = some (answer 0x7CF73600) := by
  decide

/-- VK1, VK3, VK7, VK19, VK24: floor, not truncation -/
theorem test_calib : calib Config.asb1 2457 2048 = ⟨false, 12781⟩ ∧ calib Config.asb1 2047 2048 = ⟨false, -32⟩ ∧
    calib Config.asb1 0 2048 = ⟨false, -64000⟩ ∧ calib Config.asb1 4095 4094 = ⟨false, 15⟩ ∧
    calib Config.asb1 1 4095 = ⟨false, -63985⟩ := by decide

/-- The other build of spec/95_test_vectors.md 2.4: `N = 4, W = 10, G = 250, F = 4` -/
theorem test_other_build :
    let c : Config := ⟨{ n := 4, w := 10, g := 250, f := 4 }, by decide⟩
    c.ln = 2 ∧ c.gw = 8 ∧ c.tw = 25 ∧ c.tmin = -16777216 ∧ calib c 600 512 = ⟨false, 687⟩ ∧
      calib c 0 0 = ⟨true, -16777216⟩ := by decide

/-! ### The step -/

/-- R168: a host read in the cycle of the completing `CONV_DONE` sees `ready = 1`. -/
theorem test_event_first :
    (match Sys2Proof.core.run 2 { at0 { b0 with running := true, phase := true } with
        inputs := [{ Cycle.quiet with evValid := true, cmdValid := true, cmdOp := 0x6 }] } with
      | .next t => t.out.val
      | _ => 0) = 1 := by decide

/-- P5 step 3: reset in the middle of a round, no `abort`. -/
theorem test_reset_in_round :
    afterCycle { Cycle.resetPulse with cmdValid := true, cmdOp := 0x1 } { b0 with running := true, phase := true, hold := 0x7FF } =
      some (b0, quiet) := by decide

/-- P5 as a script (R80): its words, and the number of its steps. -/
theorem test_script_p5 :
    (assemble "START_SINGLE # 1\nCONV_DONE 0x7FF\nRESET\n\nGET_SINGLE".toList).map
      (fun cs => (stepCount cs, cs.map fun x => (x.rst, x.evValid, x.evData, x.cmdOp))) =
    some (4, [(false, false, 0, 2), (false, true, 0x7FF, 0), (true, false, 0, 0), (false, false, 0, 7)]) := by decide

/-- P5 steps 1 to 3: one record per step, the run's own reset step first, whether or not the script writes it (R217). -/
theorem test_trace :
    trace [Cycle.ofWord 0x2000, Cycle.ofWord 0xC7FF, Cycle.resetPulse] = [quiet, { quiet with arm := true }, quiet, quiet] ∧
    trace [Cycle.resetPulse, Cycle.ofWord 0x2000, Cycle.ofWord 0xC7FF, Cycle.resetPulse] =
      [quiet, { quiet with arm := true }, quiet, quiet] := by decide

/-! ### Witnesses: every statement with hypotheses has a state and operands that meet them -/

theorem witness_TopNibbleSelectsOperation :
    ∀ n : Fin 16, (BitVec.ofNat 16 (n.val * 4096)).toNat / 4096 = n.val ∧ (BitVec.ofNat 16 (n.val * 4096 + 4095)).toNat / 4096 = n.val := by
  decide

theorem witness_DecodeAndEncodeAreInverse : Instr.wellFormed (.convDone 4095) = true ∧
    (0xA000 : OpWord).toNat / 4096 = 10 ∧ (0xBFFF : OpWord).toNat / 4096 = 11 ∧ (0xCFFF : OpWord).toNat / 4096 = 12 ∧
    ¬((0x9FFF : OpWord).toNat / 4096 = 10 ∨ (0x9FFF : OpWord).toNat / 4096 = 11 ∨ (0x9FFF : OpWord).toNat / 4096 = 12) := by decide

theorem witness_StepRunsPresentedWord : decode 0xC999 = .convDone 2457 := by decide

/-- One cycle for each clause, at the highest host code where one is named, and at the lowest code above it. -/
theorem witness_EventPortPrecedesHostPort :
    let x (e c : Bool) : Cycle Config.asb1 := { Cycle.quiet with evValid := e, cmdValid := c, cmdOp := 0xB }
    ∀ e c : Bool, ({ State.reset with inputs := [x e c] } : State).inputs = x e c :: [] ∧ (x e c).rst = false ∧
      (x e c).evValid = e ∧ (x e c).cmdValid = c ∧ (x e c).cmdOp.toNat < 12 ∧
      12 ≤ ({ x e c with cmdOp := 0xC } : Cycle Config.asb1).cmdOp.toNat := by decide

theorem witness_IllegalOperationsAreAnswered :
    let x : Cycle Config.asb1 := { Cycle.quiet with cmdValid := true, cmdOp := 0xC }
    ({ State.reset with inputs := [x] } : State).inputs = x :: [] ∧ x.rst = false ∧ x.evValid = false ∧ x.cmdValid = true ∧
      12 ≤ x.cmdOp.toNat := by decide

theorem witness_EveryStepCompletes : State.reset.inputs = [] := by decide

theorem witness_ResetStepClearsEverything :
    let x : Cycle Config.asb1 := { Cycle.resetPulse with evValid := true, evErr := true }
    ({ State.reset with inputs := [x] } : State).inputs = x :: [] ∧ x.rst = true := by decide

theorem witness_CommandsAreGatedByFault : (Instr.stop = .init ∨ Instr.stop = .startSingle ∨ Instr.stop = .startCont ∨ Instr.stop = .stop) ∧
    (at0 { b0 with fault := true }).block.fault = true := by decide

/-- For `InitZeroesTheBlock`, `StartSingleEffect` and `StopEffect`. -/
theorem witness_not_faulted : (at0 { b0 with running := true, phase := true, cur := ⟨7, by decide⟩ }).block.fault = false := by decide

theorem witness_StartContEffect : (at0 b0).block.fault = false ∧ (at0 b0).block.cont = false ∧
    (at0 { b0 with running := true, cont := true }).block.fault = false ∧
    (at0 { b0 with running := true, cont := true }).block.cont = true := by decide

theorem witness_BufferReads :
    (7 : Data).toNat = (⟨7, by decide⟩ : Fin Config.asb1.n).val ∧ 8 ≤ (8 : Data).toNat ∧ 8 ≤ (4095 : Data).toNat := by decide

theorem witness_HoldIsHiddenFromTheHost : Instr.port (.rdRef 3) = .host ∧ Instr.port .init = .host := by decide

/-- `r = 0` and `r ≠ 0`, at the wrap of the cursor. -/
theorem witness_GetSingleEffect :
    let s := at0 { b0 with mem := pairAt 7 2457 2048 }
    let k : Fin Config.asb1.n := ⟨7, by decide⟩
    k.val = (s.block.cur.val + 7) % 8 ∧ (s.block.mem.read .sens k).toNat = 2457 ∧ (s.block.mem.read .ref k).toNat = 2048 ∧
      (State.reset.block.mem.read .ref k).toNat = 0 := by decide

theorem witness_GetAvgEffect : ∑ k, ((at0 { b0 with mem := filled 2457 2048 }).block.mem.read .sens k).toNat = 19656 ∧
    ∑ k, ((at0 { b0 with mem := filled 2457 2048 }).block.mem.read .ref k).toNat = 16384 ∧
    ∑ k, (State.reset.block.mem.read .ref k).toNat = 0 := by decide

theorem witness_CalibrationRange : 1 ≤ 1 ∧ 32760 ≤ Config.asb1.n * (2 ^ Config.asb1.w - 1) ∧
    1 ≤ Config.asb1.n * (2 ^ Config.asb1.w - 1) := by decide

/-- At the wrap of the cursor. -/
theorem witness_SentinelExactlyOnZeroReference :
    (⟨7, by decide⟩ : Fin Config.asb1.n).val = (State.reset.block.cur.val + 7) % 8 := by decide

/-- For `RoundingErrorBound`, `CalibrationIsTheSourceFormula` and the first clause of `CalibrationIdentities`. -/
theorem witness_reference_not_zero : 1 ≤ 1 ∧ 1 ≤ 4095 := by decide

theorem witness_CalibrationIdentities : ∀ k, (at0 { b0 with mem := filled 2457 2048 }).block.mem.read .sens k = 2457 ∧
    (at0 { b0 with mem := filled 2457 2048 }).block.mem.read .ref k = 2048 := by decide

theorem witness_ReadsStraightAfterReset : State.reset.block = State.reset.block ∧ (7 : Data).toNat < 8 ∧
    (Instr.rdStatus = .isRunning ∨ Instr.rdStatus = .isReady ∨ Instr.rdStatus = .rdStatus) ∧
    (Instr.rdSens 7 = .rdSens 7 ∨ Instr.rdSens 7 = .rdRef 7) ∧ (Instr.getAvg = .getSingle ∨ Instr.getAvg = .getAvg) := by decide

theorem witness_SpuriousCompletionIsDropped :
    (at0 { b0 with fault := true, running := true }).block.fault = true ∧ (at0 b0).block.running = false := by decide

theorem witness_SensorCompletionIsLatched :
    let s := at0 { b0 with running := true }
    s.block.fault = false ∧ s.block.running = true ∧ s.block.phase = false := by decide

/-- For `ReferenceCompletionStoresThePair`, in both modes and at the wrap. -/
theorem witness_ReferenceCompletionStoresThePair :
    ∀ cont : Bool, let s := at0 { b0 with running := true, phase := true, cont := cont, cur := ⟨7, by decide⟩ }
    s.block.fault = false ∧ s.block.running = true ∧ s.block.phase = true ∧ s.block.cont = cont := by decide

theorem witness_OneEntryBuffer :
    let c : Config := ⟨{ n := 1, w := 12, g := 250, f := 8 }, by decide⟩
    let b : Block c := { Block.reset c with running := true, phase := true, cont := true }
    c.n = 1 ∧ b.fault = false ∧ b.running = true ∧ b.phase = true ∧ b.cont = true := by decide

/-- For `ConversionErrorEntersFault` (both clauses) and `FaultStateIsFrozen`. -/
theorem witness_ConversionErrorEntersFault :
    (at0 { b0 with running := true }).block.fault = false ∧ (at0 { b0 with fault := true }).block.fault = true := by decide

/-- A faulted state steps by an ignored command, a faulted state steps by a reset, and an error event sets the fault. -/
theorem witness_FaultIsEnteredByErrorAndLeftByReset :
    (∃ t, step { at0 { b0 with fault := true } with inputs := [Cycle.ofWord 0x1000] } = .next t) ∧
    (∃ t, step { at0 { b0 with fault := true } with inputs := [Cycle.resetPulse] } = .next t ∧ t.block.fault = false) ∧
    ∃ t, step { State.reset with inputs := [Cycle.ofWord 0xD000] } = .next t ∧ State.reset.block.fault = false ∧
      t.block.fault = true :=
  ⟨⟨_, rfl⟩, ⟨_, rfl, rfl⟩, _, rfl, rfl, rfl⟩

theorem witness_AccessMatrixHolds : ∃ t, exec .stop State.reset = .next t ∧ Field.ready ∉ Instr.mayWrite .stop :=
  ⟨_, rfl, by decide⟩

/-- A write of a pair at the last index, and `INIT`. -/
theorem witness_PairsAreWrittenTogether :
    (∃ t, exec (.convDone 5) (at0 { b0 with running := true, phase := true, cur := ⟨7, by decide⟩ }) = .next t) ∧
    ∃ t, exec .init State.reset = .next t := ⟨⟨_, rfl⟩, _, rfl⟩

theorem witness_ReadyRisesOnlyWithACompletedPair :
    ∃ t, exec (.convDone 5) (at0 { b0 with running := true, phase := true }) = .next t ∧
      (at0 { b0 with running := true, phase := true }).block.ready = false ∧ t.block.ready = true := ⟨_, rfl, rfl, rfl⟩

/-- An `arm` from rest, a re-arm, and an `abort`. -/
theorem witness_OneRoundInFlight :
    (∃ t, exec .startSingle State.reset = .next t ∧ t.out.arm = true ∧ State.reset.block.running = false ∧ t.block.running = true) ∧
    (∃ t, exec (.convDone 5) (at0 { b0 with running := true, phase := true, cont := true }) = .next t ∧ t.out.arm = true) ∧
    ∃ t, exec .stop (at0 { b0 with running := true }) = .next t ∧ t.out.abort = true :=
  ⟨⟨_, rfl, rfl, rfl, rfl⟩, ⟨_, rfl, rfl⟩, _, rfl, rfl⟩

/-- A state of a continuous session that meets the invariant, and a step from it. -/
theorem witness_EveryStepKeepsStateInvariant :
    ∃ s t : State, s.Inv ∧ s.block.cont = true ∧ s.block.ready = true ∧ step s = .next t :=
  ⟨{ at0 { b0 with running := true, cont := true, ready := true, wrapped := true } with inputs := [Cycle.ofWord 0xC005] }, _,
    ⟨by decide, by decide, by decide, by decide, by decide⟩, rfl, rfl, rfl⟩

theorem witness_ControlStateMachine : State.reset.block.control = some .IDLE ∧
    ∃ t, exec .startCont State.reset = .next t ∧ t.block.control = some .C0 := ⟨rfl, _, rfl, rfl⟩

/-- Idle, with a single round awaiting its sensor value, and with one awaiting its reference value. -/
theorem witness_ContinuousSessionFillsTheRing :
    (∀ r : Bool, (at0 { b0 with running := r }).block.fault = false ∧ (at0 { b0 with running := r }).block.cont = false ∧
      (at0 { b0 with running := r }).block.phase = false) ∧
    let s := at0 { b0 with running := true, phase := true, cur := ⟨2, by decide⟩, hold := 5 }
    s.block.fault = false ∧ s.block.cont = false ∧ s.block.running = true ∧ s.block.phase = true := by decide

/-- R115, on a round adopted with its reference value pending: it lands at index 0, and the seventh round after it wraps. -/
theorem test_adopted_round_is_first :
    (match execAll (.startCont :: .convDone 6 :: (List.replicate 7 (1, 2)).flatMap roundOps)
        (at0 { b0 with running := true, phase := true, cur := ⟨2, by decide⟩, hold := 5 }) with
      | .next t => (t.block.mem.read .sens ⟨0, by decide⟩, t.block.mem.read .ref ⟨0, by decide⟩, t.block.ready, t.block.cur.val)
      | _ => (0, 0, false, 9)) = (5, 6, true, 0) := by decide

/-- Nine rounds of a session over two different old contents: in continuous mode and wrapped, from outside it. -/
theorem witness_WrappedSessionHoldsOnlyFreshSamples :
    ∃ t t', execAll (.startCont :: (List.replicate 8 (1, 2)).flatMap roundOps) State.reset = .next t ∧
      execAll (.startCont :: (List.replicate 8 (1, 2)).flatMap roundOps)
        { State.reset with block := { State.reset.block with mem := (Memory.zero.write .sens 3 7) } } = .next t' ∧
      State.reset.block.cont = false ∧ t.block.cont = true ∧ t.block.wrapped = true := ⟨_, _, rfl, rfl, rfl, rfl, rfl⟩

/-- A round awaiting its reference value, and one awaiting its sensor value, in a continuous session. -/
theorem witness_StartSingleAdoptsRoundInFlight :
    ∀ phase : Bool, let s := at0 { b0 with running := true, cont := true, phase := phase }
    s.block.fault = false ∧ s.block.running = true ∧ s.block.phase = phase := by decide

theorem witness_LateCompletionHazard : (at0 { b0 with running := true, phase := true }).block.fault = false ∧
    (Instr.stop = .stop ∨ Instr.stop = .init) ∧ (Instr.init = .stop ∨ Instr.init = .init) ∧
    (Instr.startSingle = .startSingle ∨ Instr.startSingle = .startCont) ∧
    (Instr.startCont = .startSingle ∨ Instr.startCont = .startCont) := by decide

theorem witness_SingleShotReading : (at0 b0).block.fault = false ∧ (at0 b0).block.running = false := by decide

/-- A system in the middle of a continuous round, and a completion that it may deliver. -/
def midRound (cont phase : Bool) (owed : Fin 3) : System :=
  { machine := at0 { b0 with running := true, cont := cont, phase := phase }, owed := owed }

theorem midRound_inv_reference : (midRound true true 1).Inv :=
  ⟨⟨by decide, by decide, by decide, by decide, by decide⟩, by decide, by decide⟩

theorem midRound_inv_sensor : (midRound false false 2).Inv :=
  ⟨⟨by decide, by decide, by decide, by decide, by decide⟩, by decide, by decide⟩

theorem midRound_inv_last : (midRound false true 1).Inv :=
  ⟨⟨by decide, by decide, by decide, by decide, by decide⟩, by decide, by decide⟩

theorem witness_EveryMoveKeepsSystemInvariant :
    (midRound true true 1).Inv ∧ ∃ σ', (midRound true true 1).move (.done 7) = some σ' := ⟨midRound_inv_reference, _, rfl⟩

theorem witness_ReferenceConverterIsNeverSpurious :
    ((midRound true true 1).Inv ∧ (∃ σ', (midRound true true 1).move (.done 7) = some σ') ∧
      (midRound true true 1).machine.block.phase = true) ∧
    ((midRound false false 2).Inv ∧ (∃ σ', (midRound false false 2).move (.done 7) = some σ') ∧
      (midRound false false 2).machine.block.phase = false) ∧
    (Instr.stop = .stop ∨ Instr.stop = .init) :=
  ⟨⟨midRound_inv_reference, ⟨_, rfl⟩, rfl⟩, ⟨midRound_inv_sensor, ⟨_, rfl⟩, rfl⟩, .inl rfl⟩

theorem witness_SingleRoundEnds :
    ((midRound false false 2).Inv ∧ (midRound false false 2).machine.block.running = true ∧
      (midRound false false 2).machine.block.cont = false ∧ (midRound false false 2).machine.block.phase = false) ∧
    ((midRound false true 1).Inv ∧ (midRound false true 1).machine.block.running = true ∧
      (midRound false true 1).machine.block.cont = false ∧ (midRound false true 1).machine.block.phase = true) :=
  ⟨⟨midRound_inv_sensor, rfl, rfl, rfl⟩, midRound_inv_last, rfl, rfl, rfl⟩

theorem witness_PowerModeTransitions :
    ({ activation := 12800, ceiling := 64000 } : Thresholds) = { activation := 50 * 256, ceiling := 250 * 256 } := by decide

/-! ### Every configuration -/

/-- A configuration other than ASB-1: the other build of spec/95_test_vectors.md 2.4. -/
def otherBuild : Config := ⟨{ n := 4, w := 10, g := 250, f := 4 }, by decide⟩

/-- R70: with `W = 10` a word has 14 bits and the top four select: `RD_SENS 4` is answered as illegal, since `N = 4`. -/
theorem test_other_build_word :
    (Op.decode (0b10100000000100 : BitVec 14) : Op otherBuild) = .rdSens 4 ∧
    (stepOp (Block.reset otherBuild) (.rdSens 4)).2.ill = true ∧ (stepOp (Block.reset otherBuild) (.rdSens 3)).2.ill = false := by
  decide

/-- R168, with `N = 4`: in one cycle the completing event re-arms, then the host reads `ready`. -/
theorem test_other_build_cycle :
    (({ Block.reset otherBuild with running := true, phase := true, cont := true, cur := ⟨3, by decide⟩ } : Block otherBuild).cycle
      { Cycle.quiet with evValid := true, evData := 7, cmdValid := true, cmdOp := 0x6 }).2.map
        (fun o => (o.arm, o.val.toNat)) = [(true, 0), (false, 1)] := by decide

theorem witness_MachineIsTheBlockAtAsb1 :
    let x : Cycle Config.asb1 := { Cycle.quiet with evValid := true, cmdValid := true, cmdOp := 0xF }
    ({ State.reset with inputs := [x] } : State).inputs = x :: [] ∧ (x.rst = true ∨ x.evValid = true ∨ x.cmdValid = true) := by
  decide

theorem witness_EveryConfigurationDecodesItsWords :
    (Op.illegal 0xE : Op otherBuild).isDecoded = true ∧ (Op.convDone 1023 : Op otherBuild).isDecoded = true ∧
    (0x3000 : BitVec 14).toNat / 2 ^ 10 ∈ [10, 11, 12] ∧ (0x3400 : BitVec 14).toNat / 2 ^ 10 ∉ [10, 11, 12] := by decide

theorem witness_EveryConfigurationKeepsInvariant :
    ({ Block.reset otherBuild with running := true, cont := true, ready := true, wrapped := true } : Block otherBuild).Inv :=
  ⟨by decide, by decide, by decide, by decide, by decide⟩

/-! ### Runs -/

/-- A round that ends by one move of the converter, after which the host issues `NOP` for ever. -/
def endedThenIdle (first second : System) : Nat → System
  | 0 => first
  | 1 => second
  | _ + 2 => { second with machine := second.machine.idle }

/-- The moves of that run. -/
def endThenNop (m : Move) : Nat → Move
  | 0 => m
  | _ + 1 => .host .nop

/-- Such a run meets every premise of `FairConverterEndsTheWait` at its start. -/
theorem endedThenIdle_meets_premises {first second : System} {m : Move} (hi : first.Inv) (h : first.move m = some second)
    (hr : first.machine.runningO = true) (hm : m.leavesSession = true) (hends : EndsRound (endedThenIdle first second) (endThenNop m) 0)
    (ho : second.owed = 0) :
    System.IsRun (endedThenIdle first second) (endThenNop m) ∧ (endedThenIdle first second 0).Inv ∧
      ConverterFair (endedThenIdle first second) (endThenNop m) ∧ (endedThenIdle first second 0).machine.runningO = true ∧
      ∀ k, 0 ≤ k → (endThenNop m k).leavesSession = true := by
  refine ⟨?_, hi, ?_, hr, ?_⟩
  · intro n
    match n with
    | 0 => exact h
    | 1 => rfl
    | n + 2 => rfl
  · intro n hn
    match n with
    | 0 => exact ⟨0, Nat.le_refl 0, .inl hends⟩
    | 1 => exact absurd ho hn
    | n + 2 => exact absurd ho hn
  · intro k _
    match k with
    | 0 => exact hm
    | k + 1 => rfl

/-- A single round that completes. -/
theorem witness_FairConverterEndsTheWait_single :
    let σ := endedThenIdle (midRound false true 1)
      { machine := (midRound false true 1).machine.complete ((midRound false true 1).machine.block.convDone 7), owed := 0 }
    let m := endThenNop (.done 7)
    System.IsRun σ m ∧ (σ 0).Inv ∧ ConverterFair σ m ∧ (σ 0).machine.runningO = true ∧
      ∀ k, 0 ≤ k → (m k).leavesSession = true :=
  endedThenIdle_meets_premises midRound_inv_last rfl rfl rfl (.inl ⟨7, rfl, rfl⟩) rfl

/-- A continuous session that ends with an error. -/
theorem witness_FairConverterEndsTheWait_continuous :
    let σ := endedThenIdle (midRound true true 1)
      { machine := (midRound true true 1).machine.complete (midRound true true 1).machine.block.convErr, owed := 0 }
    let m := endThenNop .error
    System.IsRun σ m ∧ (σ 0).Inv ∧ ConverterFair σ m ∧ (σ 0).machine.runningO = true ∧
      ∀ k, 0 ≤ k → (m k).leavesSession = true :=
  endedThenIdle_meets_premises midRound_inv_reference rfl rfl rfl (.inr ⟨rfl, by decide⟩) rfl

theorem witness_BlockWaitsWithoutConverter :
    (at0 { b0 with running := true }).block.running = true ∧ (at0 { b0 with running := true }).block.fault = false ∧
    ∀ i ∈ [Instr.startCont, .isReady, .startSingle], i.port ≠ .event ∧ i ≠ .stop ∧ i ≠ .init := by decide

/-! ### The host's loop -/

/-- The thresholds of R189, and a host over a last pair and a flag. -/
def th250 : Thresholds := { activation := 50 * 256, ceiling := 250 * 256 }

def hostAt (mode : OperatingMode) (ready : Bool) (s r : Nat) : Controlled :=
  { mode := mode, machine := at0 { b0 with ready := ready, mem := filled s r } }

/-- R189 with vector VK21: a fresh 55 °C moves Idle to Active and starts the continuous session; the same without a fresh
result moves nothing and starts a single reading. -/
theorem test_idle_to_active :
    ((hostAt .idle true 3050 2500).tick th250).map (fun y => (y.mode, y.machine.block.cont, y.machine.out.arm)) =
      some (.active, true, true) ∧
    ((hostAt .idle false 3050 2500).tick th250).map (fun y => (y.mode, y.machine.block.cont, y.machine.out.arm)) =
      some (.idle, false, true) := by decide

/-- R177, R189 with vectors VK20, VK22, VK23: 45 °C moves Active to Idle by `START_SINGLE`, 260 °C to Fault, and a fresh 240 °C
moves Fault to Active. -/
theorem test_active_and_fault :
    ((hostAt .active true 2950 2500).tick th250).map (fun y => (y.mode, y.machine.block.running)) = some (.idle, true) ∧
    ((hostAt .active true 2040 1000).tick th250).map Controlled.mode = some .fault ∧
    ((hostAt .fault true 1960 1000).tick th250).map Controlled.mode = some .active ∧
    ((hostAt .fault false 1960 1000).tick th250).map Controlled.mode = some .fault := by decide

/-- R177 at the thresholds themselves: 50 °C is "≥" the activation threshold and not "below" it; 250 °C does not "exceed" the
ceiling and is not "back under" it. -/
theorem test_exactly_at_thresholds :
    ((hostAt .idle true 3000 2500).tick th250).map Controlled.mode = some .active ∧
    ((hostAt .active true 3000 2500).tick th250).map Controlled.mode = some .active ∧
    ((hostAt .active true 2000 1000).tick th250).map Controlled.mode = some .active ∧
    ((hostAt .fault true 2000 1000).tick th250).map Controlled.mode = some .fault := by decide

/-- Each mode with a fresh result, below, at and above each of its thresholds, and no fresh result. -/
theorem witness_PowerModeFollowsFreshReadings :
    th250.activation ≤ th250.ceiling ∧
    (hostAt .idle true 3050 2500).machine.faultO = false ∧
    (hostAt .idle false 3050 2500).machine.readyO = false ∧ (hostAt .idle true 3050 2500).machine.readyO = true ∧
    (hostAt .idle true 3050 2500).machine.block.cont = false ∧
    (hostAt .idle true 3050 2500).machine.block.lastReading = ⟨false, 14080⟩ ∧
    (hostAt .idle true 2950 2500).machine.block.lastReading = ⟨false, 11520⟩ ∧
    (hostAt .active true 2950 2500).machine.block.averageReading = ⟨false, 11520⟩ ∧
    (hostAt .active true 3050 2500).machine.block.averageReading = ⟨false, 14080⟩ ∧
    (hostAt .idle true 3000 2500).machine.block.lastReading = ⟨false, th250.activation⟩ ∧
    (hostAt .active true 3000 2500).machine.block.averageReading = ⟨false, th250.activation⟩ ∧
    (hostAt .active true 2000 1000).machine.block.averageReading = ⟨false, th250.ceiling⟩ ∧
    (hostAt .active true 2040 1000).machine.block.averageReading = ⟨false, 66560⟩ ∧
    (hostAt .fault true 1960 1000).machine.block.lastReading = ⟨false, 61440⟩ ∧
    (hostAt .fault true 2000 1000).machine.block.lastReading = ⟨false, th250.ceiling⟩ := by decide

end Sys2Proof.Tests
end

section
/-!
SUPPORT. Scope proofs: what one step does with the cycle at the head of the inputs, case by case, and the three statements about
the step function of spec/00_scope.md R10: every step completes, a presented word is performed, and the machine is the block of
every configuration at ASB-1.
-/

namespace Sys2Proof.Machine

/-! ### The host port (spec/30_encoding.md R73, R74) -/

/-- The code of a decoded operation is the word's own (R70, R72). -/
@[simp] theorem decodeFields_op (op : OpCode) (data : Data) : (decodeFields op data).op = op := by
  obtain ⟨⟨n, hn⟩⟩ := op
  have hn : n < 16 := hn
  interval_cases n <;> rfl

/-- The codes of the event port are 0xC and 0xD (R73). -/
theorem decodeFields_port_eq_event_iff (op : OpCode) (data : Data) :
    (decodeFields op data).port = .event ↔ op = 0xC ∨ op = 0xD := by
  rw [Instr.port, decodeFields_op]
  decide +revert

/-- An event code on the host port is no operation of that port (R73). -/
theorem hostOp_of_event {op : OpCode} (data : Data) (h : op = 0xC ∨ op = 0xD) : hostOp op data = .wrongPort :=
  if_pos ((decodeFields_port_eq_event_iff op data).mpr h)

/-- Every other code on the host port is the operation it decodes to. -/
theorem hostOp_of_ne_event {op : OpCode} (data : Data) (h : ¬(op = 0xC ∨ op = 0xD)) :
    hostOp op data = .op (decodeFields op data) :=
  if_neg (mt (decodeFields_port_eq_event_iff op data).mp h)

/-- The reserved codes are illegal operations (R72, R74). -/
theorem Op.ofFields_of_reserved {c : Config} {op : OpCode} (data : BitVec c.w) (h : 14 ≤ op.toNat) :
    (Op.ofFields op data : Op c) = .illegal op := by
  obtain ⟨⟨n, hn⟩⟩ := op
  have hn : n < 16 := hn
  have h : 14 ≤ n := h
  interval_cases n <;> rfl

/-- The operation the event port presents while `ev_valid = 1` (R79). -/
def Cycle.eventOperation {c : Config} (x : Cycle c) : Op c := if x.evErr then .convErr else .convDone x.evData

/-- The operation the host port presents while `cmd_valid = 1`, illegal from code 0xC on (R73, R74, R79). -/
def Cycle.hostOperation {c : Config} (x : Cycle c) : Op c :=
  if x.cmdOp.toNat < 0xC then Op.ofFields x.cmdOp x.cmdData else .illegal x.cmdOp

theorem Cycle.eventOps_eq {c : Config} (x : Cycle c) : x.eventOps = if x.evValid then [x.eventOperation] else [] := rfl

theorem Cycle.hostOps_eq {c : Config} (x : Cycle c) : x.hostOps = if x.cmdValid then [x.hostOperation] else [] := rfl

/-! ### One step, by what the head cycle presents (spec/60_exceptions.md R168; spec/70_reset_and_hazards.md R200, R217) -/

/-- With nothing left to present the step is idle (log entry 3). -/
theorem step_of_no_inputs {s : State} (h : s.inputs = []) : step s = .next s.idle := by
  obtain ⟨block, out, inputs⟩ := s
  cases h
  rfl

section HeadCycle

variable {s : State} {x : Cycle Config.asb1} {rest : List (Cycle Config.asb1)}

theorem step_of_reset (hs : s.inputs = x :: rest) (hr : x.rst = true) :
    step s = .next ({ s with inputs := rest } : State).resetStep := by
  simp [step, hs, fetch, hr]

/-- The event port comes first; the cycle stays, with that port emptied, while the host port is still to be served. -/
theorem step_of_event (hs : s.inputs = x :: rest) (hr : x.rst = false) (he : x.evValid = true) :
    step s = .next (({ s with inputs := if x.cmdValid then { x with evValid := false } :: rest else rest } : State).complete
      (stepOp s.block x.eventOperation)) := by
  simp [step, hs, fetch, hr, he, exec_eq, eventOp_toOp, Cycle.eventOperation]

/-- The host port alone: its operation, the event and reserved codes being illegal ones that answer alike (R74). -/
theorem step_of_host (hs : s.inputs = x :: rest) (hr : x.rst = false) (he : x.evValid = false) (hc : x.cmdValid = true) :
    step s = .next (({ s with inputs := rest } : State).complete (stepOp s.block x.hostOperation)) := by
  have hf : fetch s.inputs = (hostOp x.cmdOp x.cmdData, rest) := by simp [hs, fetch, hr, he, hc]
  by_cases hev : x.cmdOp = 0xC ∨ x.cmdOp = 0xD
  · have high : ¬x.cmdOp.toNat < 0xC := by rcases hev with h | h <;> simp [h]
    rw [hostOp_of_event _ hev] at hf
    simp only [step, hf, Cycle.hostOperation, if_neg high]
    rfl
  · have same : (Op.ofFields x.cmdOp x.cmdData : Op Config.asb1) = x.hostOperation := by
      rw [Cycle.hostOperation]
      split
      · rfl
      · exact Op.ofFields_of_reserved _ (by bv_omega)
    rw [hostOp_of_ne_event _ hev] at hf
    simp only [step, hf, exec_eq, decodeFields_toOp, same]

/-- A cycle that presents nothing is an idle step (log entry 3). -/
theorem step_of_quiet (hs : s.inputs = x :: rest) (hr : x.rst = false) (he : x.evValid = false) (hc : x.cmdValid = false) :
    step s = .next ({ s with inputs := rest } : State).idle := by
  simp [step, hs, fetch, hr, he, hc]

/-! ### Runs of one and of two steps -/

theorem core_run_one {t : State} (h : step s = .next t) : Sys2Proof.core.run 1 s = .next t := by
  rw [core_run_succ 0 h, core_run_zero]

theorem core_run_two {t u : State} (h : step s = .next t) (h' : step t = .next u) : Sys2Proof.core.run 2 s = .next u := by
  rw [core_run_succ 1 h, core_run_one h']

theorem traceFrom_one {t : State} (h : step s = .next t) : traceFrom 1 s = [t.out] := traceFrom_succ 0 h

theorem traceFrom_two {t u : State} (h : step s = .next t) (h' : step t = .next u) : traceFrom 2 s = [t.out, u.out] := by
  rw [traceFrom_succ 1 h, traceFrom_one h']

/-! ### The steps of one cycle (R168) -/

/-- The cycle at the head of the inputs is performed as the cycle function of every configuration says: its steps complete, take it
off, leave that function's block and, unless the cycle presents nothing, answer that function's records. -/
def State.PerformsCycle (s : State) (x : Cycle Config.asb1) (rest : List (Cycle Config.asb1)) : Prop :=
  ∃ t, Sys2Proof.core.run x.steps s = .next t ∧ t.inputs = rest ∧ t.block = (s.block.cycle x).1 ∧
    (x.rst = true ∨ x.evValid = true ∨ x.cmdValid = true → traceFrom x.steps s = (s.block.cycle x).2)

theorem performsCycle_reset (hs : s.inputs = x :: rest) (hr : x.rst = true) : s.PerformsCycle x rest := by
  have one : x.steps = 1 := by simp [Cycle.steps, hr]
  have cyc : s.block.cycle x = (Block.reset _, [Outputs.zero]) := by simp [Block.cycle, hr]
  have run := step_of_reset hs hr
  rw [State.PerformsCycle, one, cyc]
  exact ⟨_, core_run_one run, rfl, rfl, fun _ => traceFrom_one run⟩

theorem performsCycle_event (hs : s.inputs = x :: rest) (hr : x.rst = false) (he : x.evValid = true) (hc : x.cmdValid = false) :
    s.PerformsCycle x rest := by
  have one : x.steps = 1 := by simp [Cycle.steps, hr, hc]
  have cyc : s.block.cycle x = performAll s.block [x.eventOperation] := by
    simp [Block.cycle, Cycle.eventOps_eq, Cycle.hostOps_eq, hr, he, hc]
  have run := step_of_event hs hr he
  rw [State.PerformsCycle, one, cyc]
  exact ⟨_, core_run_one run, by simp [hc], rfl, fun _ => traceFrom_one run⟩

/-- The event first, and then the host operation on the block the event left. -/
theorem performsCycle_event_host (hs : s.inputs = x :: rest) (hr : x.rst = false) (he : x.evValid = true)
    (hc : x.cmdValid = true) : s.PerformsCycle x rest := by
  have two : x.steps = 2 := by simp [Cycle.steps, hr, he, hc]
  have cyc : s.block.cycle x = performAll s.block [x.eventOperation, x.hostOperation] := by
    simp [Block.cycle, Cycle.eventOps_eq, Cycle.hostOps_eq, hr, he, hc]
  have run := step_of_event hs hr he
  rw [if_pos hc] at run
  have run' := step_of_host
    (s := ({ s with inputs := { x with evValid := false } :: rest } : State).complete (stepOp s.block x.eventOperation))
    rfl hr rfl hc
  rw [State.PerformsCycle, two, cyc]
  exact ⟨_, core_run_two run run', rfl, rfl, fun _ => traceFrom_two run run'⟩

theorem performsCycle_host (hs : s.inputs = x :: rest) (hr : x.rst = false) (he : x.evValid = false) (hc : x.cmdValid = true) :
    s.PerformsCycle x rest := by
  have one : x.steps = 1 := by simp [Cycle.steps, hr, he]
  have cyc : s.block.cycle x = performAll s.block [x.hostOperation] := by
    simp [Block.cycle, Cycle.eventOps_eq, Cycle.hostOps_eq, hr, he, hc]
  have run := step_of_host hs hr he hc
  rw [State.PerformsCycle, one, cyc]
  exact ⟨_, core_run_one run, rfl, rfl, fun _ => traceFrom_one run⟩

theorem performsCycle_quiet (hs : s.inputs = x :: rest) (hr : x.rst = false) (he : x.evValid = false) (hc : x.cmdValid = false) :
    s.PerformsCycle x rest := by
  have one : x.steps = 1 := by simp [Cycle.steps, hr, he]
  have cyc : s.block.cycle x = (s.block, []) := by simp [Block.cycle, Cycle.eventOps_eq, Cycle.hostOps_eq, hr, he, hc]
  rw [State.PerformsCycle, one, cyc]
  exact ⟨_, core_run_one (step_of_quiet hs hr he hc), rfl, rfl, by simp [hr, he, hc]⟩

theorem performsCycle (hs : s.inputs = x :: rest) : s.PerformsCycle x rest := by
  cases hr : x.rst with
  | true => exact performsCycle_reset hs hr
  | false =>
    cases he : x.evValid with
    | true =>
      cases hc : x.cmdValid with
      | true => exact performsCycle_event_host hs hr he hc
      | false => exact performsCycle_event hs hr he hc
    | false =>
      cases hc : x.cmdValid with
      | true => exact performsCycle_host hs hr he hc
      | false => exact performsCycle_quiet hs hr he hc

end HeadCycle

/-! ### A presented word (spec/30_encoding.md R73, R79) -/

/-- What the pins of a word present is the operation the word decodes to, and nothing else. -/
theorem fetch_ofWord (w : OpWord) (rest : List (Cycle Config.asb1)) :
    fetch (Cycle.ofWord w :: rest) = (.op (decode w), rest) := by
  by_cases hC : opField w = 0xC
  · rw [Cycle.ofWord, if_pos hC, decode, hC]
    rfl
  · by_cases hD : opField w = 0xD
    · rw [Cycle.ofWord, if_neg hC, if_pos hD, decode, hD]
      rfl
    · rw [Cycle.ofWord, if_neg hC, if_neg hD, decode, ← hostOp_of_ne_event _ (not_or.mpr ⟨hC, hD⟩)]
      rfl

theorem step_ofWord (s : State) (w : OpWord) :
    step { s with inputs := Cycle.ofWord w :: s.inputs } = exec (decode w) s := by
  simp only [step, fetch_ofWord]

/-- Placing a word for the next step is putting its cycle before the inputs. -/
theorem State.withFetchWord_toNat (s : State) (w : OpWord) :
    s.withFetchWord 16 w.toNat = { s with inputs := Cycle.ofWord w :: s.inputs } := by
  rw [State.withFetchWord, Nat.mod_eq_of_lt w.isLt, BitVec.ofNat_toNat, BitVec.setWidth_eq]

/-! ### The statements -/

/-- Settles O7: no step stops, and a step with nothing to present is the idle step. -/
theorem everyStepCompletes : Obligations.EveryStepCompletes := fun s => ⟨step_total s, step_of_no_inputs⟩

/-- Settles O54: the decoders agree field by field, the operations by `exec_eq`, the cycles case by case on what they present. -/
theorem machineIsTheBlockAtAsb1 : Obligations.MachineIsTheBlockAtAsb1 :=
  ⟨fun w => decodeFields_toOp (opField w) (dataField w), exec_eq, fun _ _ _ => performsCycle⟩

/-- Settles O4: both ways of presenting the word put the same cycle first, and fetching that cycle gives the decoded operation. -/
theorem stepRunsPresentedWord : Obligations.StepRunsPresentedWord := by
  rintro s w _ rfl
  exact ⟨step_ofWord s w, by rw [State.withFetchWord_toNat, step_ofWord]⟩

end Sys2Proof.Machine
end

section
/-!
SUPPORT. State proofs: everything an operation can do to the block, for every configuration, and from it the invariants of
spec/10_state.md R34, the access matrix (R40), the pairing of the two arrays (R33, R56), and the independence of `hold` (R31, R38)
and of the older buffer (R34 (f)).
-/

namespace Sys2Proof.Machine

variable {c : Config} {b b' : Block c}

/-! ### The commands, case by case (spec/40_control_commands.md R90 to R95; spec/41_adc_events.md R113) -/

theorem Block.gated_of_fault (h : b.fault = true) (r : Block c × Outputs c) : b.gated r = (b, Outputs.zero) := if_pos h

theorem Block.gated_of_ok (h : b.fault = false) (r : Block c × Outputs c) : b.gated r = r := by simp [Block.gated, h]

/-- Whether or not a round is in flight, one is afterwards, and a pending reference value stays pending. -/
theorem Block.beginRound_eq (b : Block c) :
    b.beginRound = ({ b with running := true, phase := b.running && b.phase }, Outputs.armed (!b.running)) := by
  obtain ⟨running, ready, cont, phase, wrapped, fault, cur, hold, mem⟩ := b
  cases running <;> rfl

theorem Block.init_of_ok (h : b.fault = false) : b.init = (Block.reset c, Outputs.aborted b.running) := by
  rw [Block.init, Block.gated_of_ok h, Block.halt, h]
  rfl

theorem Block.startSingle_of_ok (h : b.fault = false) :
    b.startSingle = ({ b with ready := false, cont := false, running := true, phase := b.running && b.phase },
      Outputs.armed (!b.running)) := by
  rw [Block.startSingle, Block.gated_of_ok h, Block.beginRound_eq]

theorem Block.startCont_of_fresh (h : b.fault = false) (hc : b.cont = false) :
    b.startCont = ({ b with
        cont := true, cur := firstIndex, wrapped := false, ready := false, running := true, phase := b.running && b.phase },
      Outputs.armed (!b.running)) := by
  rw [Block.startCont, Block.gated_of_ok h, if_neg (by simp [hc]), Block.beginRound_eq]

theorem Block.startCont_of_repeated (hc : b.cont = true) : b.startCont = (b, Outputs.zero) := by
  rw [Block.startCont, if_pos hc, Block.gated, ite_self]

theorem Block.stop_of_ok (h : b.fault = false) : b.stop = (b.halt, Outputs.aborted b.running) := Block.gated_of_ok h _

theorem Block.convErr_of_ok (h : b.fault = false) : b.convErr = (b.enterFault, Outputs.zero) := Block.gated_of_ok h _

/-- `GET_SINGLE` consumes `ready` unless the block is faulted (R145). -/
theorem Block.consume_eq (b : Block c) : b.consume = { b with ready := b.ready && b.fault } := by
  obtain ⟨running, ready, cont, phase, wrapped, fault, cur, hold, mem⟩ := b
  cases fault <;> simp [Block.consume]

theorem Block.getSingle_of_ok (h : b.fault = false) : b.getSingle = ({ b with ready := false }, b.lastReading.outputs) := by
  rw [Block.getSingle, Block.consume_eq, h, Bool.and_false]

/-- A faulted block is frozen: `GET_SINGLE` and the gated operations keep it, and the others never change it (R164). -/
theorem stepOp_of_fault (h : b.fault = true) (o : Op c) : (stepOp b o).1 = b := by
  cases o with
  | init | startSingle | startCont | stop | convDone | convErr => exact congrArg Prod.fst (Block.gated_of_fault h _)
  | getSingle => exact if_pos h
  | nop | isRunning | isReady | getAvg | rdStatus | rdSens | rdRef | illegal => rfl

/-! ### Everything an operation can do to the block -/

/-- The block an operation leaves: the old one, or, without a fault, what the rule of that operation makes of it. -/
inductive Block.Effect (b : Block c) : Op c → Block c → Prop where
  | keeps (o : Op c) : b.Effect o b
  /-- R92. -/
  | init (ok : b.fault = false) : b.Effect .init (Block.reset c)
  /-- R93. -/
  | startSingle (ok : b.fault = false) :
      b.Effect .startSingle { b with ready := false, cont := false, running := true, phase := b.running && b.phase }
  /-- R94, from outside continuous mode. -/
  | freshEntry (ok : b.fault = false) (outside : b.cont = false) :
      b.Effect .startCont { b with
        cont := true, cur := firstIndex, wrapped := false, ready := false, running := true, phase := b.running && b.phase }
  /-- R95. -/
  | stop (ok : b.fault = false) : b.Effect .stop b.halt
  /-- R145. -/
  | consume (ok : b.fault = false) : b.Effect .getSingle { b with ready := false }
  /-- R111. -/
  | latch (v : BitVec c.w) (ok : b.fault = false) (inFlight : b.running = true) (first : b.phase = false) :
      b.Effect (.convDone v) (b.latchSensor v)
  /-- R112 in continuous mode. -/
  | endContinuous (v : BitVec c.w) (ok : b.fault = false) (inFlight : b.running = true) (last : b.phase = true)
      (mode : b.cont = true) :
      b.Effect (.convDone v) { b.storePair v with
        wrapped := b.wrappedAfter (nextIndex b.cur), ready := b.ready || b.wrappedAfter (nextIndex b.cur) }
  /-- R112 in single mode. -/
  | endSingle (v : BitVec c.w) (ok : b.fault = false) (inFlight : b.running = true) (last : b.phase = true)
      (mode : b.cont = false) : b.Effect (.convDone v) { b.storePair v with ready := true, running := false }
  /-- R113, R163. -/
  | error (ok : b.fault = false) : b.Effect .convErr b.enterFault

theorem Block.convDone_effect (b : Block c) (v : BitVec c.w) : b.Effect (.convDone v) (b.convDone v).1 := by
  rcases b.convDone_cases v with ⟨-, e⟩ | ⟨ok, inFlight, first, e⟩ | ⟨ok, inFlight, last, e⟩
  · rw [e]; exact .keeps _
  · rw [e]; exact .latch v ok inFlight first
  · rcases b.finishRound_cases v with ⟨mode, e'⟩ | ⟨mode, e'⟩
    · rw [e, e']; exact .endContinuous v ok inFlight last mode
    · rw [e, e']; exact .endSingle v ok inFlight last mode

theorem stepOp_effect (b : Block c) (o : Op c) : b.Effect o (stepOp b o).1 := by
  cases ok : b.fault with
  | true => rw [stepOp_of_fault ok]; exact .keeps o
  | false =>
    cases o with
    | init => rw [stepOp, Block.init_of_ok ok]; exact .init ok
    | startSingle => rw [stepOp, Block.startSingle_of_ok ok]; exact .startSingle ok
    | startCont =>
      cases hc : b.cont with
      | true => rw [stepOp, Block.startCont_of_repeated hc]; exact .keeps _
      | false => rw [stepOp, Block.startCont_of_fresh ok hc]; exact .freshEntry ok hc
    | stop => rw [stepOp, Block.stop_of_ok ok]; exact .stop ok
    | getSingle => rw [stepOp, Block.getSingle_of_ok ok]; exact .consume ok
    | convDone v => exact b.convDone_effect v
    | convErr => rw [stepOp, Block.convErr_of_ok ok]; exact .error ok
    | nop | isRunning | isReady | getAvg | rdStatus | rdSens | rdRef | illegal => exact .keeps _

theorem exec_effect {i : Instr} {s t : State} (h : exec i s = .next t) : s.block.Effect i.toOp t.block := by
  rw [exec_eq] at h
  cases h
  exact stepOp_effect _ _

/-! ### The state invariant (spec/10_state.md R34) -/

theorem Block.reset_inv (c : Config) : (Block.reset c).Inv := ⟨nofun, fun _ => rfl, nofun, nofun, nofun⟩

theorem Block.Effect.keeps_inv {o : Op c} (h : b.Effect o b') (hb : b.Inv) : b'.Inv := by
  obtain ⟨cont_running, idle_phase, fault_frozen, ready_wrapped, single_pending⟩ := hb
  cases h with
  | keeps => exact ⟨cont_running, idle_phase, fault_frozen, ready_wrapped, single_pending⟩
  | init => exact Block.reset_inv c
  | startSingle ok | freshEntry ok | stop ok => constructor <;> simp [ok]
  | consume | latch => constructor <;> simp_all
  | endContinuous v ok inFlight last mode =>
    have ready_after (hr : (b.ready || b.wrappedAfter (nextIndex b.cur)) = true) :
        b.wrappedAfter (nextIndex b.cur) = true := by
      rcases Bool.or_eq_true_iff.mp hr with hr | hw
      · simp [Block.wrappedAfter, ready_wrapped mode hr]
      · exact hw
    constructor <;> simp_all
  | endSingle v ok inFlight last mode => constructor <;> simp [ok, mode]
  | error => constructor <;> simp

theorem stepOp_inv (hb : b.Inv) (o : Op c) : (stepOp b o).1.Inv := (stepOp_effect b o).keeps_inv hb

theorem performAll_inv (hb : b.Inv) (os : List (Op c)) : (performAll b os).1.Inv := by
  induction os generalizing b with
  | nil => exact hb
  | cons o os ih => exact ih (stepOp_inv hb o)

theorem Block.cycle_inv (hb : b.Inv) (x : Cycle c) : (b.cycle x).1.Inv := by
  rw [Block.cycle]
  split
  · exact Block.reset_inv c
  · exact performAll_inv hb _

theorem step_inv {s t : State} (hs : s.Inv) (h : step s = .next t) : t.Inv := by
  obtain ⟨rest, ⟨-, e⟩ | ⟨i, -, e⟩ | ⟨-, e⟩ | ⟨-, e⟩⟩ := step_cases s <;> rw [e] at h <;> cases h
  · exact Block.reset_inv _
  · exact stepOp_inv hs _
  · exact hs
  · exact hs

/-! ### Who writes what (spec/10_state.md R33, R40; spec/20_memory.md R56) -/

/-- The `w` entries of the access matrix (R40), for operations with operands of any width. -/
def Op.mayWrite : Op c → List Field
  | .init => [.running, .ready, .cont, .phase, .wrapped, .cur, .hold, .buffer]
  | .startSingle => [.running, .ready, .cont, .phase]
  | .startCont => [.running, .ready, .cont, .phase, .wrapped, .cur]
  | .stop => [.running, .cont, .phase]
  | .getSingle => [.ready]
  | .convDone _ => [.running, .ready, .phase, .wrapped, .cur, .hold, .buffer]
  | .convErr => [.running, .ready, .cont, .phase, .fault]
  | .nop | .isRunning | .isReady | .getAvg | .rdStatus | .rdSens _ | .rdRef _ | .illegal _ => []

theorem toOp_mayWrite (i : Instr) : i.toOp.mayWrite = i.mayWrite := by cases i <;> rfl

theorem toOp_eq_convDone_iff {i : Instr} {v : Data} : i.toOp = .convDone v ↔ i = .convDone v := by
  cases i <;> simp [Instr.toOp]

theorem toOp_eq_init_iff {i : Instr} : i.toOp = .init ↔ i = .init := by cases i <;> simp [Instr.toOp]

theorem Block.agree_refl (f : Field) (b : Block c) : Block.agree f b b := by cases f <;> simp [Block.agree]

/-- A field that an operation may not write is as before (R40). -/
theorem Block.Effect.agree {o : Op c} (h : b.Effect o b') {f : Field} (hf : f ∉ o.mayWrite) : Block.agree f b b' := by
  cases h with
  | keeps => exact Block.agree_refl f b
  | init ok =>
    have only : f = .fault := by cases f <;> simp [Op.mayWrite] at hf ⊢
    subst only
    exact ok.symm
  | startSingle | freshEntry | stop | consume | latch | endContinuous | endSingle | error =>
    cases f <;> simp_all [Op.mayWrite, Block.agree]

/-- The pair at one index after the store of a pair (R33). -/
theorem Block.storePair_pair (b : Block c) (v : BitVec c.w) (k : Fin c.n) :
    ((b.storePair v).mem.read .sens k = b.mem.read .sens k ∧ (b.storePair v).mem.read .ref k = b.mem.read .ref k) ∨
      (k = b.cur ∧ (b.storePair v).mem.read .sens k = b.hold ∧ (b.storePair v).mem.read .ref k = v) := by
  obtain ⟨hsens, href, hother⟩ := b.mem.read_writePair b.cur b.hold v
  by_cases hk : k = b.cur
  · subst hk; exact .inr ⟨rfl, hsens, href⟩
  · exact .inl ⟨hother _ k hk, hother _ k hk⟩

/-- The two words at an index change only together: by the last completion of a round, or by `INIT` (R33, R56). -/
theorem Block.Effect.pair {o : Op c} (h : b.Effect o b') (k : Fin c.n) :
    (b'.mem.read .sens k = b.mem.read .sens k ∧ b'.mem.read .ref k = b.mem.read .ref k) ∨
    (∃ v, o = .convDone v ∧ b.fault = false ∧ b.running = true ∧ b.phase = true ∧ k = b.cur ∧
      b'.mem.read .sens k = b.hold ∧ b'.mem.read .ref k = v) ∨
    (o = .init ∧ b.fault = false ∧ b'.mem.read .sens k = 0 ∧ b'.mem.read .ref k = 0) := by
  cases h with
  | init ok => exact .inr (.inr ⟨rfl, ok, Memory.read_zero _ k, Memory.read_zero _ k⟩)
  | endContinuous v ok inFlight last | endSingle v ok inFlight last =>
    exact (b.storePair_pair v k).imp_right fun written => .inl ⟨v, rfl, ok, inFlight, last, written⟩
  | keeps | startSingle | freshEntry | stop | consume | latch | error => exact .inl ⟨rfl, rfl⟩

/-- `ready` rises only in the last completion of a round, which stores its pair (R24, R56, R112). -/
theorem Block.Effect.ready_rises {o : Op c} (h : b.Effect o b') (before : b.ready = false) (after : b'.ready = true) :
    ∃ v, o = .convDone v ∧ b.running = true ∧ b.phase = true ∧ (b.cont = false ∨ b'.wrapped = true) ∧
      b'.mem.read .sens b.cur = b.hold ∧ b'.mem.read .ref b.cur = v := by
  cases h with
  | endContinuous v ok inFlight last =>
    obtain ⟨hsens, href, -⟩ := b.mem.read_writePair b.cur b.hold v
    have wraps : b.wrappedAfter (nextIndex b.cur) = true := by simpa [before] using after
    exact ⟨v, rfl, inFlight, last, .inr wraps, hsens, href⟩
  | endSingle v ok inFlight last mode =>
    obtain ⟨hsens, href, -⟩ := b.mem.read_writePair b.cur b.hold v
    exact ⟨v, rfl, inFlight, last, .inl mode, hsens, href⟩
  | keeps | latch | stop => exact absurd (before.symm.trans after) nofun
  | init | startSingle | freshEntry | consume | error => exact absurd after nofun

/-! ### Two runs side by side -/

/-- The fault gate keeps a relation that the ungated effects and the two blocks at rest are in. -/
theorem Block.gated_rel {R : Block c × Outputs c → Block c × Outputs c → Prop} {r r' : Block c × Outputs c}
    (same : b'.fault = b.fault) (frozen : R (b, Outputs.zero) (b', Outputs.zero)) (acts : R r r') :
    R (b.gated r) (b'.gated r') := by
  rw [Block.gated, Block.gated, same]
  split
  · exact frozen
  · exact acts

/-! ### `hold` is hidden (spec/10_state.md R31, R38) -/

/-- Two results of an operation with the same outputs and with blocks that are the same but for `hold`. -/
def SameButHold (r r' : Block c × Outputs c) : Prop := ∃ h, r' = ({ r.1 with hold := h }, r.2)

theorem SameButHold.agree {r r' : Block c × Outputs c} (h : SameButHold r r') {f : Field} (hf : f ≠ .hold) :
    Block.agree f r.1 r'.1 := by
  obtain ⟨h, rfl⟩ := h
  cases f with
  | hold => exact absurd rfl hf
  | running | ready | cont | phase | wrapped | fault | cur => rfl
  | buffer => exact fun _ _ => rfl

theorem SameButHold.out_eq {r r' : Block c × Outputs c} (h : SameButHold r r') : r'.2 = r.2 := by
  obtain ⟨h, rfl⟩ := h
  rfl

theorem Block.beginRound_sameButHold (b : Block c) (h : BitVec c.w) :
    SameButHold b.beginRound ({ b with hold := h } : Block c).beginRound := by
  simp only [Block.beginRound_eq]
  exact ⟨h, rfl⟩

/-- Every operation but `CONV_DONE` answers alike over any `hold`, and lets it reach no other field. -/
theorem stepOp_sameButHold (b : Block c) (h : BitVec c.w) (o : Op c) (hdone : ∀ v, o ≠ .convDone v) :
    SameButHold (stepOp b o) (stepOp { b with hold := h } o) := by
  have gate {r r' : Block c × Outputs c} (acts : SameButHold r r') :
      SameButHold (b.gated r) (({ b with hold := h } : Block c).gated r') := Block.gated_rel rfl ⟨h, rfl⟩ acts
  cases o with
  | convDone v => exact absurd rfl (hdone v)
  | init => exact gate ⟨0, rfl⟩
  | startSingle => exact gate (Block.beginRound_sameButHold { b with ready := false, cont := false } h)
  | startCont =>
    refine gate ?_
    by_cases hc : b.cont = true
    · rw [if_pos hc, if_pos hc]
      exact ⟨h, rfl⟩
    · rw [if_neg hc, if_neg hc]
      exact Block.beginRound_sameButHold { b with cont := true, cur := firstIndex, wrapped := false, ready := false } h
  | stop | convErr => exact gate ⟨h, rfl⟩
  | getSingle =>
    simp only [stepOp, Block.getSingle, Block.consume_eq]
    exact ⟨h, rfl⟩
  | nop | isRunning | isReady | getAvg | rdStatus | rdSens | rdRef | illegal => exact ⟨h, rfl⟩

theorem toOp_ne_convDone_of_host {i : Instr} (hi : i.port = .host) (v : Data) : i.toOp ≠ .convDone v := by
  rw [Ne, toOp_eq_convDone_iff]
  rintro rfl
  exact absurd hi (by simp [Instr.port, Instr.op])

/-! ### A wrapped session holds fresh samples only (spec/10_state.md R34 (f)) -/

/-- Two blocks with the same control fields whose buffers agree wherever the continuous session, if there is one, has written:
everywhere once it has wrapped, and below the cursor before. -/
structure Block.SameSession (b b' : Block c) : Prop where
  control : b' = { b with mem := b'.mem }
  written : b.cont = true → ∀ sp (k : Fin c.n), b.wrapped = true ∨ k.val < b.cur.val →
    b'.mem.read sp k = b.mem.read sp k

/-- Outside continuous mode nothing is asked of the buffers. -/
theorem Block.SameSession.of_not_cont (control : b' = { b with mem := b'.mem }) (h : b.cont = false) : b.SameSession b' :=
  ⟨control, fun hc => absurd (h.symm.trans hc) nofun⟩

/-- At a fresh entry the session has written nothing yet (R94). -/
theorem Block.SameSession.of_fresh (control : b' = { b with mem := b'.mem }) (hw : b.wrapped = false)
    (hcur : b.cur.val = 0) : b.SameSession b' :=
  ⟨control, fun _ _ k hk => by simp [hw, hcur] at hk⟩

/-- Once wrapped, the session has written the whole buffer. -/
theorem Block.SameSession.eq_of_wrapped (h : b.SameSession b') (hc : b.cont = true) (hw : b.wrapped = true) : b' = b := by
  have same : b'.mem = b.mem := Memory.ext_of_read fun sp k => h.written hc sp k (.inl hw)
  rw [h.control, same]

/-- Storing the same pair in two buffers keeps the words they agree on, and makes them agree at its index. -/
theorem Memory.writePair_agree {m m' : Memory c} {P : Fin c.n → Prop}
    (h : ∀ sp k, P k → m'.read sp k = m.read sp k) (i : Fin c.n) (s r : BitVec c.w) (sp : Space) (k : Fin c.n)
    (hk : k = i ∨ P k) : (m'.writePair i s r).read sp k = (m.writePair i s r).read sp k := by
  obtain ⟨hsens, href, hother⟩ := m.read_writePair i s r
  obtain ⟨hsens', href', hother'⟩ := m'.read_writePair i s r
  by_cases e : k = i
  · subst e
    cases sp
    · rw [hsens, hsens']
    · rw [href, href']
  · rw [hother _ _ e, hother' _ _ e]
    exact h sp k (hk.resolve_left e)

/-- What a session has written after one more round: what it had written, and the index of the cursor (R112). -/
theorem Block.written_after_round {k : Fin c.n}
    (h : b.wrappedAfter (nextIndex b.cur) = true ∨ k.val < (nextIndex b.cur).val) :
    k = b.cur ∨ b.wrapped = true ∨ k.val < b.cur.val := by
  have hk := k.isLt
  have hcur := b.cur.isLt
  simp only [Block.wrappedAfter, Bool.or_eq_true, beq_iff_eq, nextIndex_val] at h
  rw [Fin.ext_iff]
  by_cases last : b.cur.val + 1 = c.n
  · omega
  · rw [Nat.mod_eq_of_lt (by omega)] at h
    rcases h with (wrapped | zero) | below
    · exact .inr (.inl wrapped)
    · omega
    · omega

/-- The last completion of a round, in either mode (R112). -/
theorem Block.SameSession.finishRound {m : Memory c} (h : b.SameSession { b with mem := m }) (v : BitVec c.w) :
    (b.finishRound v).1.SameSession (({ b with mem := m } : Block c).finishRound v).1 := by
  rcases b.finishRound_cases v with ⟨hc, e⟩ | ⟨hc, e⟩
  · rcases ({ b with mem := m } : Block c).finishRound_cases v with ⟨-, e'⟩ | ⟨hc', -⟩
    · rw [e, e']
      exact ⟨rfl, fun _ sp k hk => Memory.writePair_agree (h.written hc) b.cur b.hold v sp k (b.written_after_round hk)⟩
    · exact absurd (hc.symm.trans hc') nofun
  · rcases ({ b with mem := m } : Block c).finishRound_cases v with ⟨hc', -⟩ | ⟨-, e'⟩
    · exact absurd (hc.symm.trans hc') nofun
    · rw [e, e']
      exact .of_not_cont rfl hc

theorem Block.SameSession.gated {m : Memory c} {r r' : Block c × Outputs c} (h : b.SameSession { b with mem := m })
    (acts : r.1.SameSession r'.1) : (b.gated r).1.SameSession (({ b with mem := m } : Block c).gated r').1 :=
  Block.gated_rel (R := fun r r' => r.1.SameSession r'.1) rfl h acts

/-- Every operation keeps two blocks in the same session. -/
theorem stepOp_sameSession (h : b.SameSession b') (o : Op c) :
    (stepOp b o).1.SameSession (stepOp b' o).1 := by
  obtain ⟨m, rfl⟩ : ∃ m, b' = { b with mem := m } := ⟨_, h.control⟩
  cases o with
  | init => exact h.gated ⟨rfl, nofun⟩
  | startSingle =>
    refine h.gated ?_
    simp only [Block.beginRound_eq]
    exact .of_not_cont rfl rfl
  | startCont =>
    refine h.gated ?_
    by_cases hc : b.cont = true
    · rw [if_pos hc, if_pos hc]
      exact h
    · rw [if_neg hc, if_neg hc, Block.beginRound_eq, Block.beginRound_eq]
      exact .of_fresh rfl rfl rfl
  | stop | convErr => exact h.gated (.of_not_cont rfl rfl)
  | convDone v =>
    refine h.gated ?_
    by_cases hr : b.running = false
    · rw [if_pos hr, if_pos hr]
      exact h
    · rw [if_neg hr, if_neg hr]
      by_cases hp : b.phase = true
      · rw [if_pos hp, if_pos hp]
        exact h.finishRound v
      · rw [if_neg hp, if_neg hp]
        exact ⟨rfl, h.written⟩
  | getSingle =>
    simp only [stepOp, Block.getSingle, Block.consume_eq]
    exact ⟨rfl, h.written⟩
  | nop | isRunning | isReady | getAvg | rdStatus | rdSens | rdRef | illegal => exact h

theorem execAll_sameSession {ops : List Instr} {s s' t t' : State} (h : s.block.SameSession s'.block)
    (run : execAll ops s = .next t) (run' : execAll ops s' = .next t') : t.block.SameSession t'.block := by
  induction ops generalizing s s' with
  | nil => cases run; cases run'; exact h
  | cons i ops ih =>
    rw [execAll_cons] at run run'
    exact ih (stepOp_sameSession h i.toOp) run run'

/-! ### The statements -/

/-- Settles O41: each of the four kinds of step keeps the invariant. -/
theorem everyStepKeepsStateInvariant : Obligations.EveryStepKeepsStateInvariant := fun _ _ => step_inv

/-- Settles O56: the invariant at reset, over one operation and over one cycle. -/
theorem everyConfigurationKeepsInvariant : Obligations.EveryConfigurationKeepsInvariant :=
  fun c => ⟨Block.reset_inv c, fun _ hb => ⟨stepOp_inv hb, Block.cycle_inv hb⟩⟩

/-- Settles O18: no operation of the host port is the one that reads `hold`. -/
theorem holdIsHiddenFromTheHost : Obligations.HoldIsHiddenFromTheHost := by
  intro i s h hi
  have alike := stepOp_sameButHold s.block h i.toOp (toOp_ne_convDone_of_host hi)
  exact ⟨_, _, exec_eq i s, exec_eq i _, alike.out_eq, fun _ => alike.agree⟩

/-- Settles O36: by the effects of an operation, field by field. -/
theorem accessMatrixHolds : Obligations.AccessMatrixHolds := by
  intro i s t f h hf
  rw [← toOp_mayWrite] at hf
  exact (exec_effect h).agree hf

/-- Settles O37: only the last completion of a round and `INIT` touch the buffer, and both touch the whole pair. -/
theorem pairsAreWrittenTogether : Obligations.PairsAreWrittenTogether := by
  intro i s t k h
  simpa only [toOp_eq_convDone_iff, toOp_eq_init_iff] using (exec_effect h).pair k

/-- Settles O38: the two ends of a round are the only effects that set `ready`. -/
theorem readyRisesOnlyWithACompletedPair : Obligations.ReadyRisesOnlyWithACompletedPair := by
  intro i s t h before after
  simpa only [toOp_eq_convDone_iff] using (exec_effect h).ready_rises before after

/-- Settles O44: two runs over different old buffers stay in the same session, which has overwritten both once it has wrapped. -/
theorem wrappedSessionHoldsOnlyFreshSamples : Obligations.WrappedSessionHoldsOnlyFreshSamples := by
  intro s t t' old ops outside run run' hc hw
  have start : s.block.SameSession { s.block with mem := old } := .of_not_cont rfl outside
  exact (execAll_sameSession start run run').eq_of_wrapped hc hw

/-- Settles O8: R39's table, field by field. -/
theorem resetStateIsAllZero : Obligations.ResetStateIsAllZero :=
  ⟨rfl, rfl, rfl, rfl, rfl, rfl, rfl, rfl, Memory.read_zero, rfl, rfl, rfl, rfl⟩

/-- Settles O40: the reset block of every configuration meets the invariant. -/
theorem stateInvariantHoldsAtReset : Obligations.StateInvariantHoldsAtReset := Block.reset_inv _

end Sys2Proof.Machine
end

section
/-!
SUPPORT. Memory proofs: `GET_SINGLE` twice in a row (spec/20_memory.md R57, spec/43_calibration.md R145). It reads the last pair and
consumes `ready`; consuming reaches no part of that pair, and consuming again changes nothing.
-/

namespace Sys2Proof.Machine

variable {c : Config}

/-- A second consumption finds `ready` already 0, or the block still frozen. -/
@[simp] theorem Block.consume_consume (b : Block c) : b.consume.consume = b.consume := by
  simp only [Block.consume_eq, Bool.and_assoc, Bool.and_self]

/-- The last pair outlives the consumption of `ready` (R57). -/
@[simp] theorem Block.lastReading_consume (b : Block c) : b.consume.lastReading = b.lastReading := by
  rw [Block.consume_eq]
  rfl

theorem Block.getSingle_consume (b : Block c) : b.consume.getSingle = b.getSingle := by
  rw [Block.getSingle, Block.consume_consume, Block.lastReading_consume, Block.getSingle]

theorem Block.ready_consume_of_ok {b : Block c} (h : b.fault = false) : b.consume.ready = false := by
  rw [Block.consume_eq, h, Bool.and_false]

/-! ### The statement -/

/-- Settles O27: on the block the first `GET_SINGLE` left, the second has the very result of the first. -/
theorem getSingleTwice : Obligations.GetSingleTwice := by
  intro s
  have again := s.block.getSingle_consume
  exact ⟨_, _, exec_eq .getSingle s, exec_eq .getSingle _, congrArg Prod.snd again, congrArg Prod.fst again,
    Block.ready_consume_of_ok⟩

end Sys2Proof.Machine
end

section
/-!
SUPPORT. Encoding proofs: decoding and encoding in terms of the two fields of a word (spec/30_encoding.md R70, R72, R75), first for
every configuration and from there for ASB-1 (R82), and the answer to an illegal operation (R73, R74).
-/

namespace Sys2Proof.Machine

variable {c : Config}

/-! ### Words of every configuration (spec/30_encoding.md R70, R82) -/

/-- The operation map is onto the decoded operations: each is read from its own code and operand. -/
theorem Op.ofFields_code_data {o : Op c} (h : o.isDecoded = true) : Op.ofFields o.code o.data = o := by
  cases o with
  | illegal code => exact Op.ofFields_of_reserved 0 (of_decide_eq_true h)
  | nop | init | startSingle | startCont | stop | isRunning | isReady | getSingle | getAvg | rdStatus | rdSens | rdRef | convDone
  | convErr => rfl

theorem Op.decode_encode {o : Op c} (h : o.isDecoded = true) : Op.decode o.encode = o := by
  rw [Op.decode, Op.encode, Laws.extract_append_high, Laws.extract_append_low, Op.ofFields_code_data h]

/-- `op = word[W+3 : W]` (R70), as a quotient. -/
theorem toNat_extract_op {n : Nat} (w : BitVec (4 + n)) : (w.extractLsb' n 4).toNat = w.toNat / 2 ^ n := by
  have small : w.toNat / 2 ^ n < 2 ^ 4 := Nat.div_lt_of_lt_mul (by simpa only [← pow_add, Nat.add_comm n 4] using w.isLt)
  rw [BitVec.extractLsb'_toNat, Nat.shiftRight_eq_div_pow, Nat.mod_eq_of_lt small]

/-- `decode` reaches nothing but decoded operations (R82). -/
theorem Op.isDecoded_decode (w : BitVec (4 + c.w)) : (Op.decode w : Op c).isDecoded = true := by
  obtain ⟨-, hdecoded, -⟩ := Op.ofFields_spec (w.extractLsb' c.w 4) (w.extractLsb' 0 c.w)
  exact hdecoded

/-- The code of a word comes back, and its operand where the code has one. -/
theorem Op.encode_decode (w : BitVec (4 + c.w)) :
    (Op.decode w : Op c).encode =
      w.extractLsb' c.w 4 ++ (if w.toNat / 2 ^ c.w ∈ [10, 11, 12] then w.extractLsb' 0 c.w else 0) := by
  obtain ⟨hcode, -, hdata⟩ := Op.ofFields_spec (w.extractLsb' c.w 4) (w.extractLsb' 0 c.w)
  rw [Op.encode, Op.decode, hcode, hdata, toNat_extract_op]

/-- The second direction of R82: the ignored data bits come back as 0, everything else as it was. -/
theorem Op.toNat_encode_decode (w : BitVec (4 + c.w)) :
    (Op.decode w : Op c).encode.toNat =
      if w.toNat / 2 ^ c.w ∈ [10, 11, 12] then w.toNat else w.toNat / 2 ^ c.w * 2 ^ c.w := by
  have parts : w.extractLsb' c.w 4 ++ w.extractLsb' 0 c.w = w := by simp
  rw [Op.encode_decode]
  split
  · rw [parts]
  · rw [BitVec.toNat_append, toNat_extract_op, Nat.shiftLeft_eq]
    exact Nat.or_zero _

/-! ### ASB-1 as one of them (spec/00_scope.md R6) -/

theorem toOp_encode (i : Instr) : i.toOp.encode = encode i := by cases i <;> rfl

theorem toOp_decode (w : OpWord) : (decode w).toOp = Op.decode (c := Config.asb1) w := decodeFields_toOp _ _

/-- Every operation stands in the map of R72 at its own code and operand. -/
theorem decodeFields_op_data (i : Instr) : decodeFields i.op i.data = i := by cases i <;> rfl

theorem decode_encode (i : Instr) : decode (encode i) = i := by
  obtain ⟨hop, hdata⟩ := Laws.EncodeFields.of_joinWord i
  rw [decode, hop, hdata, decodeFields_op_data]

theorem toNat_encode_decode (w : OpWord) :
    (encode (decode w)).toNat = if w.toNat / 4096 ∈ [10, 11, 12] then w.toNat else w.toNat / 4096 * 4096 := by
  rw [← toOp_encode, toOp_decode]
  exact Op.toNat_encode_decode (c := Config.asb1) w

/-- The mask that keeps the `op` field. -/
theorem toNat_and_op_mask (w : OpWord) : (w &&& 0xF000).toNat = w.toNat / 4096 * 4096 := by
  have mask : (0xF000 : OpWord) = BitVec.allOnes 16 <<< 12 := rfl
  rw [mask, ← BitVec.shiftLeft_ushiftRight, BitVec.toNat_shiftLeft, BitVec.toNat_ushiftRight, Nat.shiftRight_eq_div_pow,
    Nat.shiftLeft_eq]
  omega

theorem toNat_opField (w : OpWord) : (opField w).toNat = w.toNat / 4096 := toNat_extract_op (n := 12) w

theorem toNat_dataField (w : OpWord) : (dataField w).toNat = w.toNat % 4096 := BitVec.extractLsb'_toNat 0 12 w

/-- A word is decoded by the quotient and the remainder of its value (R70, R72). -/
theorem decode_of_topNibble {w : OpWord} {n : Nat} (h : w.toNat / 4096 = n) :
    decode w = decodeFields (BitVec.ofNat 4 n) (BitVec.ofNat _ (w.toNat % 4096)) := by
  rw [decode, ← h, ← toNat_opField, ← toNat_dataField, BitVec.ofNat_toNat, BitVec.setWidth_eq, BitVec.ofNat_toNat,
    BitVec.setWidth_eq]

/-! ### Illegal operations (spec/30_encoding.md R73, R74) -/

theorem Cycle.hostOperation_of_high {x : Cycle c} (h : 12 ≤ x.cmdOp.toNat) : x.hostOperation = .illegal x.cmdOp :=
  if_neg (Nat.not_lt.mpr h)

/-! ### The statements -/

/-- Settles O3: the fields of an operation's word give it back, and the second direction of R82 is that of every configuration, read
at ASB-1. -/
theorem decodeAndEncodeAreInverse : Obligations.DecodeAndEncodeAreInverse := by
  refine ⟨fun i _ => decode_encode i, fun w => ⟨fun h => ?_, fun h => ?_⟩⟩
  · apply BitVec.eq_of_toNat_eq
    rw [toNat_encode_decode, if_pos (by simpa using h)]
  · apply BitVec.eq_of_toNat_eq
    rw [toNat_encode_decode, if_neg (by simpa using h), toNat_and_op_mask]

/-- Settles O55: through the two fields of a word. -/
theorem everyConfigurationDecodesItsWords : Obligations.EveryConfigurationDecodesItsWords :=
  fun _ => ⟨fun _ => Op.decode_encode, fun w => ⟨Op.isDecoded_decode w, Op.toNat_encode_decode w⟩⟩

/-- Settles O2: each row of the map is the operation map at its code. -/
theorem topNibbleSelectsOperation : Obligations.TopNibbleSelectsOperation := by
  intro w
  and_intros <;> exact decode_of_topNibble

/-- Settles O6: the two reserved arms of `exec`, and the host operation of a code that no operation of that port has. -/
theorem illegalOperationsAreAnswered : Obligations.IllegalOperationsAreAnswered := by
  refine ⟨fun s => ⟨exec_eq .reservedE s, exec_eq .reservedF s⟩, ?_⟩
  intro s x rest hs hr he hc high
  rw [step_of_host hs hr he hc, Cycle.hostOperation_of_high high]
  rfl

/-- Settles O1: each word is decoded by the row of its top four bits. -/
theorem handWrittenWordsDecode : Obligations.HandWrittenWordsDecode := by
  and_intros <;> exact decode_of_topNibble rfl

/-- Settles O53: the assembler evaluated on each line. -/
theorem scriptLinesAssemble : Obligations.ScriptLinesAssemble := by
  unfold Obligations.ScriptLinesAssemble
  decide

end Sys2Proof.Machine
end

section
/-!
SUPPORT. Control command proofs (spec/40_control_commands.md R90 to R96): the pulses (R78, R96) from one account of what an
operation does to the round in flight, and a single-shot reading (R93, R118, R208) from one account of how a single round ends.
-/

namespace Sys2Proof.Machine

variable {c : Config} {b : Block c}

theorem exec_of_stepOp (i : Instr) {s : State} {r : Block Config.asb1 × Outputs Config.asb1} (h : stepOp s.block i.toOp = r) :
    exec i s = .next (s.complete r) := by rw [exec_eq, h]

/-- No two operations of ASB-1 are the same one of every configuration: their words differ (R82). -/
theorem toOp_injective : Function.Injective Instr.toOp := by
  intro i j h
  rw [← decode_encode i, ← decode_encode j, ← toOp_encode, ← toOp_encode, h]

theorem toOp_eq_startSingle_iff {i : Instr} : i.toOp = .startSingle ↔ i = .startSingle :=
  toOp_injective.eq_iff (b := .startSingle)

theorem toOp_eq_startCont_iff {i : Instr} : i.toOp = .startCont ↔ i = .startCont := toOp_injective.eq_iff (b := .startCont)

theorem toOp_eq_stop_iff {i : Instr} : i.toOp = .stop ↔ i = .stop := toOp_injective.eq_iff (b := .stop)

/-! ### The round in flight (spec/40_control_commands.md R96; spec/30_encoding.md R78) -/

/-- What an operation does to the round in flight, with the pulse it gives: nothing, or it ends without a pulse; or it begins,
is followed by the next one, or is aborted. -/
inductive Block.RoundStep (b : Block c) (o : Op c) (r : Block c × Outputs c) : Prop where
  | noPulse (arm : r.2.arm = false) (abort : r.2.abort = false) (noRise : r.1.running = true → b.running = true)
  /-- R93, R94. -/
  | begins (start : o = .startSingle ∨ o = .startCont) (before : b.running = false) (after : r.1.running = true)
      (phase : r.1.phase = false) (out : r.2 = Outputs.armed true)
  /-- R112 in continuous mode. -/
  | rearms (done : ∃ v, o = .convDone v) (before : b.running = true) (last : b.phase = true) (mode : b.cont = true)
      (after : r.1.running = true) (phase : r.1.phase = false) (out : r.2 = Outputs.armed true)
  /-- R92, R95. -/
  | aborts (ending : o = .stop ∨ o = .init) (before : b.running = true) (after : r.1.running = false)
      (out : r.2 = Outputs.aborted true)

theorem Block.RoundStep.of_kept {o : Op c} {out : Outputs c} (arm : out.arm = false) (abort : out.abort = false) :
    b.RoundStep o (b, out) := .noPulse arm abort id

theorem Block.RoundStep.gated {o : Op c} {r : Block c × Outputs c} (acts : b.fault = false → b.RoundStep o r) :
    b.RoundStep o (b.gated r) := by
  rcases b.gated_cases r with ⟨-, e⟩ | ⟨ok, e⟩
  · rw [e]; exact .of_kept rfl rfl
  · rw [e]; exact acts ok

/-- A start arms where it finds no round in flight (R93, R94). -/
theorem Block.RoundStep.of_beginRound {o : Op c} (start : o = .startSingle ∨ o = .startCont) {b' : Block c}
    (same : b'.running = b.running) : b.RoundStep o b'.beginRound := by
  rcases b'.beginRound_cases with ⟨before, e⟩ | ⟨before, e⟩ <;> rw [same] at before <;> rw [e]
  · exact .noPulse rfl rfl fun _ => before
  · exact .begins start before rfl rfl rfl

/-- `STOP` and `INIT` abort the round they find in flight (R92, R95). -/
theorem Block.RoundStep.of_abort {o : Op c} (ending : o = .stop ∨ o = .init) {b' : Block c} (after : b'.running = false) :
    b.RoundStep o (b', Outputs.aborted b.running) := by
  cases before : b.running with
  | false => exact .noPulse rfl rfl fun h => absurd (after.symm.trans h) nofun
  | true => exact .aborts ending before after rfl

theorem Block.convDone_roundStep (b : Block c) (v : BitVec c.w) : b.RoundStep (.convDone v) (b.convDone v) := by
  rcases b.convDone_cases v with ⟨-, e⟩ | ⟨-, -, -, e⟩ | ⟨-, inFlight, last, e⟩
  · rw [e]; exact .of_kept rfl rfl
  · rw [e]; exact .noPulse rfl rfl id
  · rcases b.finishRound_cases v with ⟨mode, e'⟩ | ⟨-, e'⟩
    · rw [e, e']; exact .rearms ⟨v, rfl⟩ inFlight last mode inFlight rfl rfl
    · rw [e, e']; exact .noPulse rfl rfl nofun

theorem Block.directRead_noPulse (b : Block c) (sp : Space) (idx : BitVec c.w) :
    (b.directRead sp idx).arm = false ∧ (b.directRead sp idx).abort = false := by
  rcases b.directRead_cases sp idx with ⟨h, e⟩ | ⟨-, e⟩ <;> rw [e] <;> exact ⟨rfl, rfl⟩

theorem stepOp_roundStep (b : Block c) (o : Op c) : b.RoundStep o (stepOp b o) := by
  cases o with
  | init => exact .gated fun _ => .of_abort (.inr rfl) rfl
  | startSingle => exact .gated fun _ => .of_beginRound (.inl rfl) rfl
  | startCont =>
    refine .gated fun _ => ?_
    split
    · exact .of_kept rfl rfl
    · exact .of_beginRound (.inr rfl) rfl
  | stop => exact .gated fun _ => .of_abort (.inl rfl) rfl
  | convDone v => exact b.convDone_roundStep v
  | convErr => exact .gated fun _ => .noPulse rfl rfl nofun
  | rdSens idx =>
    obtain ⟨arm, abort⟩ := b.directRead_noPulse .sens idx
    exact .of_kept arm abort
  | rdRef idx =>
    obtain ⟨arm, abort⟩ := b.directRead_noPulse .ref idx
    exact .of_kept arm abort
  | getSingle =>
    refine .noPulse rfl rfl fun after => ?_
    rwa [stepOp, Block.getSingle, Block.consume_eq] at after
  | nop | isRunning | isReady | getAvg | rdStatus | illegal => exact .of_kept rfl rfl

/-- Where the pulses may stand (R78, R96). -/
theorem Block.RoundStep.pulses {o : Op c} {r : Block c × Outputs c} (h : b.RoundStep o r) :
    ¬(r.2.arm = true ∧ r.2.abort = true) ∧
    (r.2.arm = true → r.1.running = true ∧ r.1.phase = false ∧
      ((b.running = false ∧ (o = .startSingle ∨ o = .startCont)) ∨
        (b.running = true ∧ b.phase = true ∧ b.cont = true ∧ ∃ v, o = .convDone v))) ∧
    (r.2.abort = true → b.running = true ∧ r.1.running = false ∧ (o = .stop ∨ o = .init)) ∧
    (b.running = false → r.1.running = true → r.2.arm = true) := by
  cases h with
  | noPulse arm abort noRise =>
    have noRise (before : b.running = false) : r.1.running = false := by simpa [before] using noRise
    simp +contextual [arm, abort, noRise]
  | begins start before after phase out => simp [out, start, before, after, phase]
  | rearms done before last mode after phase out => simp [out, done, before, last, mode, after, phase]
  | aborts ending before after out => simp [out, ending, before, after]

/-! ### The completions of a single round (spec/41_adc_events.md R111, R112) -/

theorem Block.convDone_of_first (ok : b.fault = false) (inFlight : b.running = true) (first : b.phase = false)
    (v : BitVec c.w) : b.convDone v = (b.latchSensor v, Outputs.zero) := by
  simp [Block.convDone, Block.gated_of_ok ok, inFlight, first]

theorem Block.convDone_of_last (ok : b.fault = false) (inFlight : b.running = true) (last : b.phase = true)
    (v : BitVec c.w) : b.convDone v = b.finishRound v := by
  simp [Block.convDone, Block.gated_of_ok ok, inFlight, last]

/-- The block a single round ends in: its pair stored, the result ready, nothing in flight (R112). -/
def Block.endSingle (b : Block c) (v : BitVec c.w) : Block c := { b.storePair v with ready := true, running := false }

theorem Block.convDone_of_single (ok : b.fault = false) (inFlight : b.running = true) (last : b.phase = true)
    (mode : b.cont = false) (v : BitVec c.w) : b.convDone v = (b.endSingle v, Outputs.zero) := by
  rw [Block.convDone_of_last ok inFlight last, Block.finishRound, if_neg (by simp [mode])]
  rfl

/-- A whole single round: the sensor value is latched, the reference value ends it (R111, R112). -/
theorem Block.convDone_convDone_of_single (ok : b.fault = false) (inFlight : b.running = true) (first : b.phase = false)
    (mode : b.cont = false) (v r : BitVec c.w) :
    (b.convDone v).1.convDone r = ((b.latchSensor v).endSingle r, Outputs.zero) := by
  rw [Block.convDone_of_first ok inFlight first]
  exact Block.convDone_of_single (b := b.latchSensor v) ok inFlight rfl mode r

theorem Block.endSingle_pair (b : Block c) (v : BitVec c.w) :
    (b.endSingle v).mem.read .sens b.cur = b.hold ∧ (b.endSingle v).mem.read .ref b.cur = v := by
  obtain ⟨hsens, href, -⟩ := b.mem.read_writePair b.cur b.hold v
  exact ⟨hsens, href⟩

/-- The last reading is that of the pair just stored (R145). -/
theorem Block.lastReading_endSingle (b : Block c) (v : BitVec c.w) :
    (b.endSingle v).lastReading = calib c b.hold.toNat v.toNat := by
  obtain ⟨hsens, href⟩ := b.endSingle_pair v
  have last : lastIndex (b.endSingle v).cur = b.cur := lastIndex_nextIndex b.cur
  rw [Block.lastReading, last, hsens, href]

/-! ### A single round of the machine (R93, R111, R112) -/

theorem execAll_cons_of_exec {i : Instr} {s m : State} (h : exec i s = .next m) (is : List Instr) :
    execAll (i :: is) s = execAll is m := by rw [execAll, h]

/-- After `START_SINGLE` a single round is in flight, at the cursor and with the pending sensor value of before (R93). -/
theorem exec_startSingle_of_ok {s : State} (ok : s.block.fault = false) :
    ∃ m, exec .startSingle s = .next m ∧ m.block.fault = false ∧ m.block.running = true ∧ m.block.cont = false ∧
      m.block.phase = (s.block.running && s.block.phase) ∧ m.block.cur = s.block.cur ∧ m.block.hold = s.block.hold ∧
      m.out = Outputs.armed (!s.block.running) :=
  ⟨_, exec_of_stepOp .startSingle (Block.startSingle_of_ok ok), ok, rfl, rfl, rfl, rfl, rfl, rfl⟩

theorem execAll_singleRound {m : State} (ok : m.block.fault = false) (inFlight : m.block.running = true)
    (first : m.block.phase = false) (mode : m.block.cont = false) (v r : Data) :
    execAll [.convDone v, .convDone r] m = .next (m.complete ((m.block.latchSensor v).endSingle r, Outputs.zero)) := by
  have ends : stepOp (stepOp m.block (.convDone v)).1 (.convDone r) = ((m.block.latchSensor v).endSingle r, Outputs.zero) :=
    Block.convDone_convDone_of_single ok inFlight first mode v r
  rw [execAll_cons]
  exact exec_of_stepOp (.convDone r) ends

/-! ### Answers of the reads (spec/42_status_reads.md R131, R132, R134, R135) -/

theorem flagWord_eq (f : Bool) : flagWord c f = if f = true then 1 else 0 := by
  cases f <;> simp [flagWord]

/-- Every index is an operand (R7: `N ≤ 2 ^ W`). -/
theorem Config.index_lt (k : Fin c.n) : k.val < 2 ^ c.w := by
  have legal := c.ok
  simp only [Params.legal, Bool.and_eq_true, decide_eq_true_eq] at legal
  omega

/-- A direct read at an index answers its word bit for bit (R118). -/
theorem Block.toNat_directRead (b : Block c) (sp : Space) (k : Fin c.n) :
    (b.directRead sp (BitVec.ofNat c.w k.val)).val.toNat = (b.mem.read sp k).toNat := by
  have index : (BitVec.ofNat c.w k.val).toNat = k.val := by
    rw [BitVec.toNat_ofNat, Nat.mod_eq_of_lt (Config.index_lt k)]
  rcases b.directRead_cases sp (BitVec.ofNat c.w k.val) with ⟨h, e⟩ | ⟨h, -⟩
  · have wide : c.w ≤ c.tw := by unfold Params.tw; omega
    rw [e, Outputs.value_val, BitVec.toNat_setWidth_of_le wide]
    simp only [index]
  · exact absurd k.isLt (by omega)

/-! ### The statements -/

/-- Settles O39: each pulse belongs to one kind of round step, and `running` rises in none without `arm`. -/
theorem oneRoundInFlight : Obligations.OneRoundInFlight := by
  intro i s t h
  rw [exec_eq] at h
  cases h
  simpa only [toOp_eq_startSingle_iff, toOp_eq_startCont_iff, toOp_eq_stop_iff, toOp_eq_init_iff, toOp_eq_convDone_iff,
    State.complete_block, State.complete_out] using (stepOp_roundStep s.block i.toOp).pulses

/-- Settles O45: the round lands the pair at the old cursor, where the three reads find it. -/
theorem singleShotReading : Obligations.SingleShotReading := by
  intro s a r ok atRest
  obtain ⟨m, started, ok', inFlight, mode, phase, cur, -, -⟩ := exec_startSingle_of_ok ok
  have first : m.block.phase = false := by rw [phase, atRest, Bool.false_and]
  obtain ⟨hsens, href⟩ := (m.block.latchSensor a).endSingle_pair r
  rw [Block.latchSensor_cur, cur] at hsens href
  have reading := (m.block.latchSensor a).lastReading_endSingle r
  refine ⟨m.complete ((m.block.latchSensor a).endSingle r, Outputs.zero), ?_, rfl, rfl, mode,
    ⟨_, exec_eq _ _, ?_⟩, ⟨_, exec_eq _ _, ?_⟩,
    ⟨_, exec_of_stepOp .getSingle (Block.getSingle_of_ok ok'), rfl, congrArg CalibResult.dz reading,
      congrArg (fun x : CalibResult => BitVec.ofInt _ x.val) reading⟩⟩
  · rw [execAll_cons_of_exec started, execAll_singleRound ok' inFlight first mode]
  · exact (Block.toNat_directRead _ .sens s.block.cur).trans (congrArg BitVec.toNat hsens)
  · exact (Block.toNat_directRead _ .ref s.block.cur).trans (congrArg BitVec.toNat href)

/-- Settles O46: the start changes neither `running` nor `phase`, and leaves a single round for one completion or two to end. -/
theorem startSingleAdoptsRoundInFlight : Obligations.StartSingleAdoptsRoundInFlight := by
  intro s v r ok before
  obtain ⟨m, started, ok', inFlight, mode, phase, cur, hold, out⟩ := exec_startSingle_of_ok ok
  rw [before, Bool.true_and] at phase
  rw [before, Bool.not_true] at out
  refine ⟨m, started, by rw [out]; rfl, by rw [out]; rfl, inFlight, phase, fun last => ?_, fun first => ?_⟩
  · obtain ⟨hsens, href⟩ := m.block.endSingle_pair r
    rw [cur] at hsens href
    exact ⟨_, exec_of_stepOp (.convDone r) (Block.convDone_of_single ok' inFlight (phase.trans last) mode r), rfl, rfl, rfl,
      hsens.trans hold, href⟩
  · obtain ⟨hsens, href⟩ := (m.block.latchSensor v).endSingle_pair r
    rw [Block.latchSensor_cur, cur] at hsens href
    exact ⟨_, execAll_singleRound ok' inFlight (phase.trans first) mode v r, rfl, rfl, rfl, hsens, href⟩

/-- Settles O10: all four stand behind the fault gate. -/
theorem commandsAreGatedByFault : Obligations.CommandsAreGatedByFault := by
  intro s i hi fault
  have frozen : stepOp s.block i.toOp = (s.block, Outputs.zero) := by
    rcases hi with rfl | rfl | rfl | rfl <;> exact Block.gated_of_fault fault _
  exact exec_of_stepOp i frozen

/-- Settles O11: without a fault `INIT` leaves the reset block. -/
theorem initZeroesTheBlock : Obligations.InitZeroesTheBlock :=
  fun _ ok => ⟨_, exec_of_stepOp .init (Block.init_of_ok ok), rfl, rfl, rfl, Memory.read_zero⟩

/-- Settles O12: the two flags are cleared, and the round begun or adopted. -/
theorem startSingleEffect : Obligations.StartSingleEffect := fun _ ok => exec_of_stepOp .startSingle (Block.startSingle_of_ok ok)

/-- Settles O13: a fresh entry and a repeated one. -/
theorem startContEffect : Obligations.StartContEffect :=
  fun _ ok => ⟨fun fresh => ⟨_, exec_of_stepOp .startCont (Block.startCont_of_fresh ok fresh), rfl, rfl⟩,
    fun again => exec_of_stepOp .startCont (Block.startCont_of_repeated again)⟩

/-- Settles O14: without a fault `STOP` halts the block and aborts its round. -/
theorem stopEffect : Obligations.StopEffect := fun _ ok => exec_of_stepOp .stop (Block.stop_of_ok ok)

/-- Settles O15: the answer of a flag read is its level output, zero-extended. -/
theorem nopAndFlagReads : Obligations.NopAndFlagReads := by
  intro s
  refine ⟨exec_eq .nop s, ?_, ?_⟩
  · rw [exec_eq, ← flagWord_eq]; rfl
  · rw [exec_eq, ← flagWord_eq]; rfl

end Sys2Proof.Machine
end

section
/-!
SUPPORT. Converter event proofs (spec/41_adc_events.md R110 to R115): the four answers to `CONV_DONE`, the transition table of
R114 by the flags that name a control state, and a continuous session round by round.
-/

namespace Sys2Proof.Machine

variable {c : Config} {b t : Block c}

/-! ### The remaining completions (R110, R112) -/

theorem Block.convDone_of_dropped (h : b.fault = true ∨ b.running = false) (v : BitVec c.w) :
    b.convDone v = (b, Outputs.zero) := by
  rcases h with fault | idle
  · exact Block.gated_of_fault fault _
  · rw [Block.convDone, if_pos idle, Block.gated, ite_self]

/-- The block a continuous round ends in: its pair stored, `wrapped` and `ready` set once the cursor has come to 0 (R112). -/
def Block.endContinuous (b : Block c) (v : BitVec c.w) : Block c :=
  { b.storePair v with
    wrapped := b.wrappedAfter (nextIndex b.cur), ready := b.ready || b.wrappedAfter (nextIndex b.cur) }

theorem Block.finishRound_of_continuous (mode : b.cont = true) (v : BitVec c.w) :
    b.finishRound v = (b.endContinuous v, Outputs.armed true) := if_pos mode

theorem Block.finishRound_of_single (mode : b.cont = false) (v : BitVec c.w) :
    b.finishRound v = (b.endSingle v, Outputs.zero) := if_neg (by simp [mode])

theorem Block.convDone_of_continuous (ok : b.fault = false) (inFlight : b.running = true) (last : b.phase = true)
    (mode : b.cont = true) (v : BitVec c.w) : b.convDone v = (b.endContinuous v, Outputs.armed true) := by
  rw [Block.convDone_of_last ok inFlight last, Block.finishRound_of_continuous mode]

/-- What the end of a round does in either mode (R112). -/
theorem Block.finishRound_frame (b : Block c) (v : BitVec c.w) :
    (b.finishRound v).1.mem = b.mem.writePair b.cur b.hold v ∧ (b.finishRound v).1.cur = nextIndex b.cur ∧
      (b.finishRound v).1.phase = false ∧ (b.finishRound v).1.hold = b.hold ∧ (b.finishRound v).1.fault = b.fault ∧
      (b.finishRound v).1.cont = b.cont := by
  cases mode : b.cont with
  | true => rw [Block.finishRound_of_continuous mode]; exact ⟨rfl, rfl, rfl, rfl, rfl, mode⟩
  | false => rw [Block.finishRound_of_single mode]; exact ⟨rfl, rfl, rfl, rfl, rfl, mode⟩

/-- At the cursor `i` of ASB-1 the next index is 0 exactly at the last index (R112 corner case 1). -/
theorem nextIndex_asb1_eq_zero_iff (i : Fin Config.asb1.n) : (nextIndex i).val = 0 ↔ i.val = 7 := by
  have below : i.val < 8 := i.isLt
  have next : (nextIndex i).val = (i.val + 1) % 8 := nextIndex_val i
  omega

/-! ### The control states (R114) -/

/-- The four flags that the control state is read from: `fault`, `running`, `cont`, `phase`. -/
def Block.flags (b : Block c) : Bool × Bool × Bool × Bool := (b.fault, b.running, b.cont, b.phase)

/-- The flags a control state stands for (R114): `FAULT` is `fault = 1` with (0,0,0). -/
def Control.flags : Control → Bool × Bool × Bool × Bool
  | .FAULT => (true, false, false, false)
  | .IDLE => (false, false, false, false)
  | .S0 => (false, true, false, false)
  | .S1 => (false, true, false, true)
  | .C0 => (false, true, true, false)
  | .C1 => (false, true, true, true)

theorem Block.control_eq_some_iff {q : Control} : b.control = some q ↔ b.flags = q.flags := by
  unfold Block.control Block.flags
  split <;> cases q <;> simp_all [Control.flags]

/-- R34 leaves six of the sixteen combinations of the flags. -/
theorem Block.Inv.exists_control (h : b.Inv) : ∃ q, b.control = some q := by
  obtain ⟨cont_running, idle_phase, fault_frozen, -, -⟩ := h
  simp only [Block.control_eq_some_iff, Block.flags]
  cases fault : b.fault with
  | true =>
    obtain ⟨running, cont, phase, -⟩ := fault_frozen fault
    exact ⟨.FAULT, by rw [running, cont, phase]; rfl⟩
  | false =>
    cases running : b.running with
    | false =>
      have cont : b.cont = false := by simpa [running] using cont_running
      exact ⟨.IDLE, by rw [cont, idle_phase running]; rfl⟩
    | true =>
      cases b.cont <;> cases b.phase
      exacts [⟨.S0, rfl⟩, ⟨.S1, rfl⟩, ⟨.C0, rfl⟩, ⟨.C1, rfl⟩]

theorem Control.next_FAULT (i : Instr) : Control.next .FAULT i = .FAULT := rfl

/-- The column `CONV_DONE` of the table, by what a completion can do (R110 to R112). -/
theorem Block.convDone_flags {q : Control} {b : Block Config.asb1} (h : b.flags = q.flags) (v : Data) :
    (b.convDone v).1.flags = (q.next (.convDone v)).flags := by
  rcases b.convDone_cases v with ⟨dropped, e⟩ | ⟨ok, inFlight, first, e⟩ | ⟨ok, inFlight, last, e⟩ <;> rw [e]
  case' inr.inr => rcases b.finishRound_cases v with ⟨mode, e'⟩ | ⟨mode, e'⟩ <;> rw [e']
  all_goals cases q <;> simp_all [Block.flags, Control.flags, Control.next]

/-- Every operation moves the flags by the transition table (R114). -/
theorem stepOp_flags {q : Control} {b : Block Config.asb1} (h : b.flags = q.flags) (i : Instr) :
    (stepOp b i.toOp).1.flags = (q.next i).flags := by
  cases ok : b.fault with
  | true =>
    have faulted : q = .FAULT := by cases q <;> simp_all [Block.flags, Control.flags]
    rw [stepOp_of_fault ok, h, faulted, Control.next_FAULT]
  | false =>
    cases i with
    | init | startSingle | stop | convErr =>
      simp only [Instr.toOp, stepOp, Block.init_of_ok ok, Block.startSingle_of_ok ok, Block.stop_of_ok ok, Block.convErr_of_ok ok]
      cases q <;> simp_all [Block.flags, Control.flags, Control.next, Block.reset]
    | startCont =>
      rw [Instr.toOp, stepOp]
      cases mode : b.cont
      case' true => rw [Block.startCont_of_repeated mode]
      case' false => rw [Block.startCont_of_fresh ok mode]
      all_goals cases q <;> simp_all [Block.flags, Control.flags, Control.next]
    | convDone v => exact Block.convDone_flags h v
    | getSingle =>
      rw [Instr.toOp, stepOp, Block.getSingle_of_ok ok]
      cases q <;> exact h
    | nop | isRunning | isReady | getAvg | rdStatus | rdSens | rdRef | reservedE | reservedF => cases q <;> exact h

/-! ### A continuous session (R65, R112, R115) -/

/-- The block after a fresh entry that awaits a sensor value (R94). -/
def Block.freshEntry (b : Block c) : Block c :=
  { b with cont := true, cur := firstIndex, wrapped := false, ready := false, running := true, phase := false }

theorem Block.startCont_of_awaiting_sensor (ok : b.fault = false) (outside : b.cont = false) (first : b.phase = false) :
    b.startCont = (b.freshEntry, Outputs.armed (!b.running)) := by
  rw [Block.startCont_of_fresh ok outside, first, Bool.and_false]
  rfl

/-- A round awaiting its reference value is adopted as if its sensor value had been latched after the entry. -/
theorem Block.startCont_of_awaiting_reference (ok : b.fault = false) (outside : b.cont = false) (inFlight : b.running = true)
    (last : b.phase = true) : b.startCont = (b.freshEntry.latchSensor b.hold, Outputs.zero) := by
  rw [Block.startCont_of_fresh ok outside, inFlight, last]
  rfl

theorem Block.holdsSession_freshEntry (ok : b.fault = false) : b.HoldsSession b.freshEntry [] where
  in_flight := ⟨rfl, rfl, rfl, ok⟩
  cur := (Nat.zero_mod c.n).symm
  wrapped := (decide_eq_false (Nat.not_le.mpr c.n_pos)).symm
  ready := (decide_eq_false (Nat.not_le.mpr c.n_pos)).symm
  last_pairs := nofun
  not_reached _ _ _ := rfl

theorem Block.HoldsSession.convDone_first {rounds : List (BitVec c.w × BitVec c.w)} (h : b.HoldsSession t rounds)
    (v : BitVec c.w) : t.convDone v = (t.latchSensor v, Outputs.zero) := by
  obtain ⟨inFlight, -, first, ok⟩ := h.in_flight
  exact Block.convDone_of_first ok inFlight first v

theorem Block.HoldsSession.convDone_last {rounds : List (BitVec c.w × BitVec c.w)} (h : b.HoldsSession t rounds)
    (v r : BitVec c.w) : (t.latchSensor v).convDone r = ((t.latchSensor v).endContinuous r, Outputs.armed true) := by
  obtain ⟨inFlight, mode, -, ok⟩ := h.in_flight
  exact Block.convDone_of_continuous (b := t.latchSensor v) ok inFlight rfl mode r

/-- The cursor and `wrapped` after one more round: the cursor comes to 0 with the `N`-th round, and `wrapped` is sticky. -/
theorem Block.HoldsSession.wrappedAfter {rounds : List (BitVec c.w × BitVec c.w)} (h : b.HoldsSession t rounds) :
    t.wrappedAfter (nextIndex t.cur) = decide (c.n ≤ rounds.length + 1) := by
  have pos := c.n_pos
  rw [Block.wrappedAfter, nextIndex_val, h.cur, h.wrapped, Nat.mod_add_mod, Bool.eq_iff_iff]
  simp only [Bool.or_eq_true, beq_iff_eq, decide_eq_true_eq]
  by_cases full : c.n ≤ rounds.length
  · omega
  · by_cases last : rounds.length + 1 = c.n
    · simp [last]
    · rw [Nat.mod_eq_of_lt (by omega)]
      omega

/-- One more round of the session: its sensor value is latched, its reference value ends it. Of the rounds whose pairs count from
then on, it alone is at the cursor. -/
theorem Block.HoldsSession.round {rounds : List (BitVec c.w × BitVec c.w)} (h : b.HoldsSession t rounds)
    (p : BitVec c.w × BitVec c.w) : b.HoldsSession ((t.latchSensor p.1).endContinuous p.2) (rounds ++ [p]) := by
  obtain ⟨inFlight, mode, -, ok⟩ := h.in_flight
  obtain ⟨hsens, href, hother⟩ := t.mem.read_writePair t.cur p.1 p.2
  have one_more : (rounds ++ [p]).length = rounds.length + 1 := List.length_append
  constructor
  case in_flight => exact ⟨inFlight, mode, rfl, ok⟩
  case cur => rw [one_more, ← Nat.mod_add_mod, ← h.cur]; rfl
  case wrapped => rw [one_more]; exact h.wrappedAfter
  case ready =>
    rw [one_more]
    calc (t.ready || t.wrappedAfter (nextIndex t.cur))
      _ = (decide (c.n ≤ rounds.length) || decide (c.n ≤ rounds.length + 1)) := by rw [h.ready, h.wrappedAfter]
      _ = decide (c.n ≤ rounds.length + 1) := by
        rw [← Bool.decide_or, decide_eq_decide]
        omega
  case last_pairs =>
    intro j hj k at_k recent
    rw [one_more] at hj recent
    by_cases last : j = rounds.length
    · subst last
      have at_cur : k = t.cur := Fin.ext (at_k.trans h.cur.symm)
      rw [List.getElem_concat_length rfl, at_cur]
      exact ⟨hsens, href⟩
    · have before : j < rounds.length := by omega
      have away : k ≠ t.cur := by
        rintro rfl
        have same : j % c.n = rounds.length % c.n := at_k.symm.trans h.cur
        exact last (Nat.mod_injOn_Ico j c.n (by simp [c.n_pos]) (by simp; omega) same)
      obtain ⟨old_sens, old_ref⟩ := h.last_pairs j before k at_k (by omega)
      rw [List.getElem_append_left before]
      exact ⟨(hother .sens k away).trans old_sens, (hother .ref k away).trans old_ref⟩
  case not_reached =>
    intro sp k beyond
    rw [one_more] at beyond
    have away : k ≠ t.cur := by
      rintro rfl
      have := Nat.mod_le rounds.length c.n
      rw [h.cur] at beyond
      omega
    exact (hother sp k away).trans (h.not_reached sp k (by omega))

/-- The rounds of a session, one by one. -/
theorem execAll_rounds {b : Block Config.asb1} {s : State} {done : List (Data × Data)} (h : b.HoldsSession s.block done)
    (rounds : List (Data × Data)) :
    ∃ t, execAll (rounds.flatMap roundOps) s = .next t ∧ b.HoldsSession t.block (done ++ rounds) := by
  induction rounds generalizing s done with
  | nil => exact ⟨s, rfl, by rwa [List.append_nil]⟩
  | cons p rounds ih =>
    have ended : stepOp (stepOp s.block (.convDone p.1)).1 (.convDone p.2) =
        ((s.block.latchSensor p.1).endContinuous p.2, Outputs.armed true) := by
      rw [stepOp, stepOp, h.convDone_first, h.convDone_last]
    rw [List.flatMap_cons, roundOps, List.cons_append, List.cons_append, List.nil_append, List.append_cons, execAll_cons,
      execAll_cons]
    refine ih ?_
    rw [State.complete_block, State.complete_block, Instr.toOp, Instr.toOp, ended]
    exact h.round p

/-! ### One entry (R112 corner case 2, R146 corner case 4) -/

/-- With one entry the sum is its word. -/
theorem Memory.sum_of_one_entry (one : c.n = 1) (m : Memory c) (sp : Space) (k : Fin c.n) :
    m.sum sp = (m.read sp k).toNat := by
  have zero : k.val = 0 := by omega
  obtain ⟨x, hx⟩ := List.length_eq_one_iff.mp ((m.array sp).length_toList.trans one)
  have word : m.read sp k = x := by simp [Memory.read, ← Vector.getElem_toList, hx, zero]
  rw [Memory.sum, hx, word, List.map_singleton, List.sum_singleton]

theorem nextIndex_of_one_entry (one : c.n = 1) (i : Fin c.n) : nextIndex i = i ∧ (nextIndex i).val = 0 := by
  have := i.isLt
  have := (nextIndex i).isLt
  exact ⟨Fin.ext (by omega), by omega⟩

/-! ### The statements -/

/-- Settles O42: by the flags that name a control state. -/
theorem controlStateMachine : Obligations.ControlStateMachine := by
  refine ⟨fun s inv => inv.exists_control, fun i s t q named run => ?_⟩
  rw [exec_eq] at run
  cases run
  rw [Block.control_eq_some_iff] at named ⊢
  exact stepOp_flags named i

/-- Settles O31: the frame of the last completion, and its two modes. -/
theorem referenceCompletionStoresThePair : Obligations.ReferenceCompletionStoresThePair := by
  intro s v ok inFlight last
  obtain ⟨mem, cur, phase, hold, fault, cont⟩ := s.block.finishRound_frame v
  obtain ⟨hsens, href, hother⟩ := s.block.mem.read_writePair s.block.cur s.block.hold v
  refine ⟨_, exec_of_stepOp (.convDone v) (Block.convDone_of_last ok inFlight last v), ?_⟩
  simp only [State.complete_block, State.complete_out, State.complete_inputs, mem, cur, phase, hold, fault, cont]
  refine ⟨hsens, href, hother, rfl, trivial, trivial, ok, trivial, trivial, fun mode => ?_, fun mode => ?_⟩
  · have wraps : s.block.wrappedAfter (nextIndex s.block.cur) = (s.block.wrapped || decide (s.block.cur.val = 7)) := by
      rw [Block.wrappedAfter, Bool.beq_eq_decide_eq, decide_eq_decide.mpr (nextIndex_asb1_eq_zero_iff _)]
    rw [Block.finishRound_of_continuous mode]
    exact ⟨inFlight, wraps, rfl, rfl⟩
  · rw [Block.finishRound_of_single mode]
    exact ⟨rfl, rfl, rfl, rfl⟩

/-- Settles O32: the one index is at once the cursor, the next and the last one. -/
theorem oneEntryBuffer : Obligations.OneEntryBuffer := by
  intro c b one
  refine ⟨fun v ok inFlight last mode => ?_, ?_⟩
  · obtain ⟨same, zero⟩ := nextIndex_of_one_entry one b.cur
    have wraps : b.wrappedAfter (nextIndex b.cur) = true := by simp [Block.wrappedAfter, zero]
    rw [Block.convDone_of_continuous ok inFlight last mode]
    exact ⟨wraps, by rw [Block.endContinuous, wraps, Bool.or_true], same, rfl⟩
  · have average : b.averageReading = b.lastReading := by
      rw [Block.averageReading, Block.lastReading, Memory.sum_of_one_entry one b.mem _ (lastIndex b.cur),
        Memory.sum_of_one_entry one b.mem _ (lastIndex b.cur)]
    rw [Block.getAvg, Block.getSingle, average]

/-- Settles O43: a fresh entry holds a session of no rounds, and an adopted round is one whose sensor value is latched already. -/
theorem continuousSessionFillsTheRing : Obligations.ContinuousSessionFillsTheRing := by
  intro s rounds ok outside
  have fresh := s.block.holdsSession_freshEntry ok
  refine ⟨fun first => ?_, fun inFlight last r => ?_⟩
  · have entry := exec_of_stepOp .startCont (Block.startCont_of_awaiting_sensor ok outside first)
    rw [execAll_cons_of_exec entry]
    exact execAll_rounds (done := []) fresh rounds
  · have entry := exec_of_stepOp .startCont (Block.startCont_of_awaiting_reference ok outside inFlight last)
    have ended := exec_of_stepOp (s := s.complete (s.block.freshEntry.latchSensor s.block.hold, Outputs.zero)) (.convDone r)
      (fresh.convDone_last s.block.hold r)
    rw [execAll_cons_of_exec entry, execAll_cons_of_exec ended]
    exact execAll_rounds (done := [(s.block.hold, r)]) (fresh.round (s.block.hold, r)) rounds

/-- Settles O29: by the gates of R110. -/
theorem spuriousCompletionIsDropped : Obligations.SpuriousCompletionIsDropped :=
  fun _ v gate => exec_of_stepOp (.convDone v) (Block.convDone_of_dropped gate v)

/-- Settles O30: the first completion of a round. -/
theorem sensorCompletionIsLatched : Obligations.SensorCompletionIsLatched :=
  fun _ v ok inFlight first => exec_of_stepOp (.convDone v) (Block.convDone_of_first ok inFlight first v)

end Sys2Proof.Machine
end

section
/-!
SUPPORT. Status and buffer read proofs: the number that the packed status word of spec/10_state.md R35 is, and the answer of a direct
read on either side of `N` (spec/42_status_reads.md R133 to R135), for every configuration.
-/

namespace Sys2Proof.Machine

variable {c : Config}

/-! ### The status word (R35, R133) -/

/-- The high part of a concatenation weighs two to the width of the low part. -/
theorem toNat_append_eq_mul_add {n m : Nat} (x : BitVec n) (y : BitVec m) : (x ++ y).toNat = 2 ^ m * x.toNat + y.toNat := by
  rw [BitVec.toNat_append, ← Nat.shiftLeft_add_eq_or_of_lt y.isLt, Nat.shiftLeft_eq, Nat.mul_comm]

/-- The numbering of `acq`, `ready` first (R27). -/
theorem Block.toNat_acq_bits (b : Block c) :
    b.acq.bits.toNat = if b.ready = true then 2 else if b.running = true then 1 else 0 := by
  unfold Block.acq
  cases b.ready <;> cases b.running <;> rfl

/-- The cursor fits the `LN` bits it has in the status word (R6, R30). -/
theorem Block.cur_lt_two_pow (b : Block c) : b.cur.val < 2 ^ c.ln :=
  calc b.cur.val
    _ ≤ c.n - 1 := Nat.le_sub_one_of_lt b.cur.isLt
    _ < 2 ^ c.ln := lt_two_pow_bitLength le_rfl

/-- `TW` bits hold the whole status word (R7). -/
theorem Config.status_fits (c : Config) : c.ln + 8 ≤ c.tw := by
  have h := c.ok
  simp only [Params.legal, Bool.and_eq_true, decide_eq_true_eq] at h
  omega

theorem Block.toNat_status (b : Block c) :
    b.status.toNat = b.running.toNat + 2 * b.ready.toNat + 4 * b.cont.toNat + 8 * b.phase.toNat + 16 * b.wrapped.toNat +
      32 * b.fault.toNat + 64 * (if b.ready = true then 2 else if b.running = true then 1 else 0) + 256 * b.cur.val := by
  rw [Block.status, BitVec.toNat_setWidth_of_le (Config.status_fits c)]
  simp only [toNat_append_eq_mul_add, BitVec.toNat_ofBool, BitVec.toNat_ofNat, Nat.mod_eq_of_lt b.cur_lt_two_pow,
    b.toNat_acq_bits]
  omega

/-! ### The direct reads (R134, R135) -/

theorem Block.directRead_of_lt (b : Block c) (sp : Space) {idx : BitVec c.w} {k : Fin c.n} (h : idx.toNat = k.val) :
    b.directRead sp idx = Outputs.value (BitVec.ofNat _ (b.mem.read sp k).toNat) := by
  obtain ⟨k, hk⟩ := k
  subst h
  rcases b.directRead_cases sp idx with ⟨_, e⟩ | ⟨beyond, -⟩
  · rw [e, BitVec.ofNat_toNat]
  · exact absurd hk (Nat.not_lt.mpr beyond)

theorem Block.directRead_of_ge (b : Block c) (sp : Space) {idx : BitVec c.w} (h : c.n ≤ idx.toNat) :
    b.directRead sp idx = Outputs.illegal := by
  rcases b.directRead_cases sp idx with ⟨below, -⟩ | ⟨-, e⟩
  · exact absurd below (Nat.not_lt.mpr h)
  · exact e

/-! ### The statements -/

/-- Settles O16: the read keeps the block, and its answer is the status word, weighed bit by bit. -/
theorem statusWordLayout : Obligations.StatusWordLayout :=
  fun s => ⟨_, exec_eq .rdStatus s, rfl, rfl, rfl, rfl, rfl, rfl, s.block.toNat_status⟩

/-- Settles O17: by the two cases of a direct read, which both spaces share. -/
theorem bufferReads : Obligations.BufferReads := by
  intro s idx
  refine ⟨fun k at_k => ?_, fun beyond => ?_⟩
  · have word (sp : Space) := s.block.directRead_of_lt sp at_k
    exact ⟨exec_of_stepOp (.rdSens idx) (congrArg (s.block, ·) (word .sens)),
      exec_of_stepOp (.rdRef idx) (congrArg (s.block, ·) (word .ref))⟩
  · have illegal (sp : Space) := s.block.directRead_of_ge sp beyond
    exact ⟨exec_of_stepOp (.rdSens idx) (congrArg (s.block, ·) (illegal .sens)),
      exec_of_stepOp (.rdRef idx) (congrArg (s.block, ·) (illegal .ref))⟩

end Sys2Proof.Machine
end

section
/-!
SUPPORT. Calibration proofs (spec/43_calibration.md R140 to R150): the calibration as the floor of the exact temperature, the range
in which `TW` bits hold it, and the operands that the two getters give it.
-/

namespace Sys2Proof

/-! ### The parameters of the range (R143) -/

/-- The largest sum of `N` samples, the bound on both operands (R143). -/
def Params.maxSum (p : Params) : Nat := p.n * (2 ^ p.w - 1)

theorem Params.scale_lt (p : Params) : p.scale < 2 ^ (p.gw + p.f) := by
  rw [Params.scale, pow_add]
  exact Nat.mul_lt_mul_of_pos_right (lt_two_pow_bitLength le_rfl) (Nat.two_pow_pos p.f)

theorem Config.maxSum_lt (c : Config) : c.maxSum < 2 ^ (c.w + c.ln) := by
  have n_le : c.n ≤ 2 ^ c.ln := Nat.le_of_pred_lt (lt_two_pow_bitLength le_rfl)
  calc c.n * (2 ^ c.w - 1)
    _ < c.n * 2 ^ c.w := Nat.mul_lt_mul_of_pos_left (Nat.sub_one_lt (Nat.two_pow_pos _).ne') c.n_pos
    _ ≤ 2 ^ c.ln * 2 ^ c.w := Nat.mul_le_mul_right _ n_le
    _ = 2 ^ (c.w + c.ln) := by rw [pow_add, mul_comm]

theorem Config.tw_pred (c : Config) : c.tw - 1 = (c.gw + c.f) + (c.w + c.ln) := by
  rw [Params.tw, Nat.add_sub_cancel, Nat.add_assoc _ c.w]

/-- The sentinel is below every result (R143, R144). -/
theorem Config.tmin_lt_neg_scale (c : Config) : c.tmin < -(c.scale : Int) := by
  have magnitude : c.scale < 2 ^ (c.tw - 1) :=
    calc c.scale
      _ < 2 ^ (c.gw + c.f) := c.scale_lt
      _ ≤ 2 ^ (c.tw - 1) := Nat.pow_le_pow_right two_pos (by rw [c.tw_pred]; exact Nat.le_add_right _ _)
  rw [Params.tmin]
  exact neg_lt_neg (Int.ofNat_lt.mpr magnitude)

theorem Config.scale_mul_maxSum_lt (c : Config) : c.scale * (c.maxSum - 1) < 2 ^ (c.tw - 1) :=
  calc c.scale * (c.maxSum - 1)
    _ ≤ c.scale * c.maxSum := Nat.mul_le_mul_left _ (Nat.sub_le _ _)
    _ < 2 ^ (c.gw + c.f) * 2 ^ (c.w + c.ln) := Nat.mul_lt_mul'' c.scale_lt c.maxSum_lt
    _ = 2 ^ (c.tw - 1) := by rw [c.tw_pred, ← pow_add]

end Sys2Proof

namespace Sys2Proof.Machine

variable {c : Config} {a b : Nat}

/-! ### The floor of the exact temperature (R141, R142, R148) -/

/-- The floor of R9 is that of the rational quotient. -/
theorem floorDiv_eq_floor (p : Int) (q : Nat) : floorDiv p q = ⌊(p : ℚ) / q⌋ := by
  rw [floorDiv, Int.fdiv_eq_ediv_of_nonneg _ (Int.natCast_nonneg q), Rat.floor_intCast_div_natCast]

theorem calib_val_of_pos (c : Config) (a : Nat) (hb : 1 ≤ b) :
    (calib c a b).val = floorDiv (c.scale * ((a : Int) - b)) b := by rw [calib_pos c a (Nat.one_le_iff_ne_zero.mp hb)]

theorem calib_val_eq_floor (c : Config) (a : Nat) (hb : 1 ≤ b) : (calib c a b).val = ⌊(c.scale : ℚ) * (a - b) / b⌋ := by
  rw [calib_val_of_pos c a hb, floorDiv_eq_floor]
  push_cast
  rfl

/-- The scaled operand of the floor is the exact temperature of R148 in units of `2^-F`. -/
theorem calib_val_eq_floor_exact (c : Config) (a : Nat) (hb : 1 ≤ b) :
    (calib c a b).val = ⌊2 ^ c.f * ((c.g : ℚ) * (a - b) / b)⌋ := by
  have scaled : (c.scale : ℚ) * (a - b) / b = 2 ^ c.f * ((c.g : ℚ) * (a - b) / b) := by
    rw [Params.scale]
    push_cast
    ring
  rw [calib_val_eq_floor c a hb, scaled]

/-- The outputs of a calibration on ASB-1, a zero reference included (R141, R144). -/
theorem calib_outputs_asb1 (a b : Nat) :
    (calib Config.asb1 a b).outputs = (
      { val := if b = 0 then 0x80000000 else BitVec.ofInt _ ⌊64000 * ((a : ℚ) - b) / b⌋
        dz := decide (b = 0), ill := false, arm := false, abort := false } : Outputs Config.asb1) := by
  by_cases hb : b = 0
  · subst hb
    rfl
  · have val := calib_val_eq_floor Config.asb1 a (Nat.one_le_iff_ne_zero.mpr hb)
    rw [Config.asb1_scale] at val
    rw [if_neg hb, decide_eq_false hb, CalibResult.outputs, val, calib_pos _ _ hb]
    rfl

/-- A common factor of the operands cancels (R146: the sums stand for the means). -/
theorem calib_mul_left (c : Config) {n : Nat} (hn : 0 < n) (a b : Nat) : calib c (n * a) (n * b) = calib c a b := by
  rcases Nat.eq_zero_or_pos b with rfl | hb
  · rfl
  · have factor : (c.scale : Int) * ((n * a : Nat) - (n * b : Nat)) = n * (c.scale * (a - b)) := by
      push_cast
      ring
    rw [calib_pos c a hb.ne', calib_pos c _ (Nat.mul_pos hn hb).ne', factor, Nat.cast_mul, floorDiv, floorDiv,
      Int.mul_fdiv_mul_of_pos _ _ (Int.natCast_pos.mpr hn)]

theorem calib_self (c : Config) {k : Nat} (hk : 1 ≤ k) : calib c k k = { dz := false, val := 0 } := by
  rw [calib_pos c k (Nat.one_le_iff_ne_zero.mp hk), sub_self, mul_zero, floorDiv, Int.zero_fdiv]

/-! ### Range (R143) -/

theorem neg_scale_le_calib (c : Config) (a : Nat) (hb : 1 ≤ b) : -(c.scale : Int) ≤ (calib c a b).val := by
  rw [calib_val_of_pos c a hb, floorDiv_le_iff (by omega)]
  have nonneg : (0 : Int) ≤ c.scale * a := by positivity
  linarith

/-- Above, the worst case is the greatest sensor operand over the reference 1. -/
theorem calib_le (c : Config) {m : Nat} (hb : 1 ≤ b) (ha : a ≤ m) (hm : 1 ≤ m) :
    (calib c a b).val ≤ ((c.scale * (m - 1) : Nat) : Int) := by
  rw [calib_val_of_pos c a hb, ← Int.lt_add_one_iff, ← not_le, floorDiv_le_iff (by omega), not_le]
  have reference : (1 : Int) ≤ b := by omega
  have operand : (a : Int) - b ≤ (m - 1 : Nat) := by omega
  calc (c.scale : Int) * (a - b)
    _ ≤ (c.scale * (m - 1) : Nat) := by rw [Nat.cast_mul]; exact mul_le_mul_of_nonneg_left operand (Int.natCast_nonneg _)
    _ < (c.scale * (m - 1) : Nat) + 1 := Int.lt_succ _
    _ ≤ ((c.scale * (m - 1) : Nat) + 1) * b := le_mul_of_one_le_right (by positivity) reference

theorem calib_ne_tmin (c : Config) (a : Nat) (hb : 1 ≤ b) : (calib c a b).val ≠ c.tmin :=
  (c.tmin_lt_neg_scale.trans_le (neg_scale_le_calib c a hb)).ne'

theorem tmin_le_calib (c : Config) (a b : Nat) : c.tmin ≤ (calib c a b).val := by
  rcases Nat.eq_zero_or_pos b with rfl | pos
  · exact le_rfl
  · exact (c.tmin_lt_neg_scale.trans_le (neg_scale_le_calib c a pos)).le

theorem calib_lt (ha : a ≤ c.maxSum) (hb : b ≤ c.maxSum) : (calib c a b).val < (2 ^ (c.tw - 1) : Nat) := by
  rcases Nat.eq_zero_or_pos b with rfl | pos
  · have negative : c.tmin < 0 := neg_neg_of_pos (Int.natCast_pos.mpr (Nat.two_pow_pos _))
    exact negative.trans_le (Int.natCast_nonneg _)
  · exact (calib_le c pos ha (pos.trans_le hb)).trans_lt (Int.ofNat_lt.mpr c.scale_mul_maxSum_lt)

/-- `TW` bits hold every calibration, the sentinel being the least value they hold (R143). -/
theorem toInt_calib_outputs (ha : a ≤ c.maxSum) (hb : b ≤ c.maxSum) :
    ((calib c a b).outputs : Outputs c).val.toInt = (calib c a b).val := by
  have lower := tmin_le_calib c a b
  have upper := calib_lt ha hb
  rw [Params.tmin] at lower
  push_cast at lower upper
  exact BitVec.toInt_ofInt_eq_self (Nat.succ_pos _) lower upper

theorem calib_dz_iff (c : Config) (a b : Nat) : (calib c a b).dz = true ↔ b = 0 := by
  by_cases hb : b = 0
  · simp [hb, calib_zero]
  · simp [hb, calib_pos c a hb]

/-- The answer is the sentinel exactly when it carries `dz` (R143, R144). -/
theorem calib_dz_iff_sentinel (ha : a ≤ c.maxSum) (hb : b ≤ c.maxSum) :
    (calib c a b).dz = true ↔ ((calib c a b).outputs : Outputs c).val = BitVec.ofInt c.tw c.tmin := by
  rw [calib_dz_iff]
  refine ⟨fun zero => by rw [zero, calib_zero, CalibResult.outputs_val], fun sentinel => ?_⟩
  have value : (calib c a b).val = (calib c a 0).val := by
    rw [← toInt_calib_outputs ha hb, ← toInt_calib_outputs ha (Nat.zero_le _)]
    exact congrArg BitVec.toInt sentinel
  exact Nat.eq_zero_of_not_pos fun pos => calib_ne_tmin c a pos value

/-! ### The operands of the getters (R145, R146) -/

theorem Memory.sum_eq_finset_sum (m : Memory c) (sp : Space) : m.sum sp = ∑ k, (m.read sp k).toNat := by
  have words : (m.array sp).toList.map BitVec.toNat = List.ofFn fun k => (m.read sp k).toNat := by
    apply List.ext_getElem <;> simp [Memory.read]
  rw [Memory.sum, words, List.sum_ofFn]

theorem Memory.sum_eq_zero_iff (m : Memory c) (sp : Space) : m.sum sp = 0 ↔ ∀ k, m.read sp k = 0 := by
  rw [Memory.sum_eq_finset_sum, Finset.sum_eq_zero_iff]
  simp [← BitVec.toNat_inj]

/-- Equal words sum to `N` times the word. -/
theorem Memory.sum_of_constant {m : Memory c} {sp : Space} {v : BitVec c.w} (h : ∀ k, m.read sp k = v) :
    m.sum sp = c.n * v.toNat := by
  simp [Memory.sum_eq_finset_sum, h]

theorem Memory.sum_le_maxSum (m : Memory c) (sp : Space) : m.sum sp ≤ c.maxSum := by
  rw [Memory.sum_eq_finset_sum]
  have bound := Finset.sum_le_card_nsmul Finset.univ (fun k => (m.read sp k).toNat) (2 ^ c.w - 1)
    fun k _ => Nat.le_sub_one_of_lt (m.read sp k).isLt
  rwa [Finset.card_univ, Fintype.card_fin, smul_eq_mul] at bound

theorem Memory.read_le_maxSum (m : Memory c) (sp : Space) (k : Fin c.n) : (m.read sp k).toNat ≤ c.maxSum := by
  refine le_trans ?_ (m.sum_le_maxSum sp)
  rw [Memory.sum_eq_finset_sum]
  exact Finset.single_le_sum (f := fun k => (m.read sp k).toNat) (fun _ _ => Nat.zero_le _) (Finset.mem_univ k)

/-- On ASB-1 the last pair stands at `(cur + 7) mod 8` (R54). -/
theorem lastIndex_asb1 {cur k : Fin Config.asb1.n} (h : k.val = (cur.val + 7) % 8) : lastIndex cur = k := Fin.ext h.symm

/-! ### The statements -/

/-- Settles O19: the last pair, calibrated on ASB-1, and `ready` consumed. -/
theorem getSingleEffect : Obligations.GetSingleEffect := by
  rintro s k at_k _ _ rfl rfl
  have answer : s.block.lastReading.outputs = _ := calib_outputs_asb1 _ _
  rw [lastIndex_asb1 at_k] at answer
  have result : s.block.getSingle = ({ s.block with ready := s.block.ready && s.block.fault }, _) :=
    Prod.ext s.block.consume_eq answer
  exact exec_of_stepOp .getSingle result

/-- Settles O20: the two sums, calibrated on ASB-1. -/
theorem getAvgEffect : Obligations.GetAvgEffect := by
  rintro s _ _ rfl rfl
  rw [← Memory.sum_eq_finset_sum, ← Memory.sum_eq_finset_sum]
  exact exec_of_stepOp .getAvg (congrArg (s.block, ·) (calib_outputs_asb1 _ _))

/-- Settles O21: the two bounds, and the sentinel below them. -/
theorem calibrationRange : Obligations.CalibrationRange :=
  fun c a _ hb ha hb' => ⟨neg_scale_le_calib c a hb, calib_le c hb ha (hb.trans hb'), calib_ne_tmin c a hb⟩

/-- Settles O22: words and sums are operands in the range that `TW` bits hold. -/
theorem resultsNeverWrap : Obligations.ResultsNeverWrap :=
  fun _ b => ⟨toInt_calib_outputs (b.mem.read_le_maxSum _ _) (b.mem.read_le_maxSum _ _),
    toInt_calib_outputs (b.mem.sum_le_maxSum _) (b.mem.sum_le_maxSum _)⟩

/-- Settles O23: `dz` and the sentinel both say that the reference operand is 0. -/
theorem sentinelExactlyOnZeroReference : Obligations.SentinelExactlyOnZeroReference := by
  intro s
  refine ⟨⟨_, exec_eq .getSingle s, ?_, fun k at_k => ?_⟩, ⟨_, exec_eq .getAvg s, ?_, ?_⟩⟩
  · exact calib_dz_iff_sentinel (Memory.read_le_maxSum _ _ _) (Memory.read_le_maxSum _ _ _)
  · rw [← lastIndex_asb1 at_k]
    exact (calib_dz_iff _ _ _).trans (BitVec.toNat_inj (y := 0))
  · exact calib_dz_iff_sentinel (Memory.sum_le_maxSum _ _) (Memory.sum_le_maxSum _ _)
  · exact (calib_dz_iff _ _ _).trans (Memory.sum_eq_zero_iff _ _)

/-- Settles O24: the floor of the scaled exact temperature, and the same divided by `2^F`. -/
theorem roundingErrorBound : Obligations.RoundingErrorBound := by
  intro c a b hb
  have unit : (0 : ℚ) < 2 ^ c.f := by positivity
  rw [calib_val_eq_floor_exact c a hb]
  generalize (c.g : ℚ) * (a - b) / b = T
  have below := Int.floor_le (2 ^ c.f * T)
  have above := Int.lt_floor_add_one (2 ^ c.f * T)
  refine ⟨sub_nonneg.mpr below, by linarith, (div_le_iff₀' unit).mpr below, ?_⟩
  rw [sub_lt_iff_lt_add, ← add_div, lt_div_iff₀' unit, add_comm]
  exact above

/-- Settles O25: the source's formula is the exact temperature, `G` being 1.25 over 0.005. -/
theorem calibrationIsTheSourceFormula : Obligations.CalibrationIsTheSourceFormula := by
  intro s r hr
  have formula : ((s : ℚ) * (1.25 / r) - 1.25) / 0.005 = (250 : Nat) * (s - r) / r := by
    field_simp
    norm_num
    ring
  rw [calib_val_eq_floor_exact _ s hr, formula]

/-- Settles O26: the difference of equal operands is 0, and the sums of equal pairs are eight times the pair. -/
theorem calibrationIdentities : Obligations.CalibrationIdentities := by
  refine ⟨fun c k => calib_self c, fun s a r pairs => ⟨_, _, exec_eq .getAvg s, exec_eq .getSingle s, ?_⟩⟩
  have average : s.block.averageReading = s.block.lastReading := by
    obtain ⟨sens, ref⟩ := forall_and.mp pairs
    rw [Block.averageReading, Memory.sum_of_constant sens, Memory.sum_of_constant ref, calib_mul_left _ (Config.n_pos _),
      Block.lastReading, sens, ref]
  exact congrArg CalibResult.outputs average

end Sys2Proof.Machine
end

section
/-!
SUPPORT. Fault and port proofs (spec/60_exceptions.md R163 to R168): how the fault is entered, what it freezes and what alone
leaves it; and the two ports of one cycle, the event first.
-/

namespace Sys2Proof.Machine

variable {c : Config} {b : Block c}

/-! ### The fault (R163 to R165) -/

/-- An operation that keeps the block gives no pulse: a pulse goes with a round that begins, ends or is followed by the next. -/
theorem Block.RoundStep.noPulse_of_kept {o : Op c} {r : Block c × Outputs c} (h : b.RoundStep o r) (kept : r.1 = b) :
    r.2.arm = false ∧ r.2.abort = false := by
  subst kept
  cases h with
  | noPulse arm abort => exact ⟨arm, abort⟩
  | begins _ before after => exact absurd (before.symm.trans after) nofun
  | rearms _ _ last _ _ phase => exact absurd (phase.symm.trans last) nofun
  | aborts _ before after => exact absurd (after.symm.trans before) nofun

/-- `CONV_ERR` alone sets `fault` (R29, R40). -/
theorem Block.Effect.error_of_fault {b' : Block c} {o : Op c} (h : b.Effect o b') (before : b.fault = false)
    (after : b'.fault = true) : o = .convErr := by
  by_contra notError
  have unwritten : Field.fault ∉ o.mayWrite := by cases o <;> simp_all [Op.mayWrite]
  exact absurd (after.symm.trans ((h.agree unwritten).trans before)) nofun

theorem Cycle.eventOperation_eq_convErr_iff (x : Cycle c) : x.eventOperation = .convErr ↔ x.evErr = true := by
  cases h : x.evErr <;> simp [Cycle.eventOperation, h]

/-- The host port presents no converter event (R73). -/
theorem Cycle.hostOperation_ne_convErr (x : Cycle c) : x.hostOperation ≠ .convErr := by
  rw [Cycle.hostOperation]
  split
  next low =>
    obtain ⟨code, -⟩ := Op.ofFields_spec x.cmdOp x.cmdData
    intro h
    rw [h] at code
    rw [← code] at low
    exact absurd low (show ¬(0xD : OpCode).toNat < 0xC by decide)
  next => nofun

/-- What a step does to the block: it is a reset step, an operation of one of the two ports, or nothing. -/
theorem step_block {s t : State} (h : step s = .next t) :
    (t.block = Block.reset _ ∧ ∃ x rest, s.inputs = x :: rest ∧ x.rst = true) ∨
    (∃ x rest, s.inputs = x :: rest ∧ x.rst = false ∧
      ((x.evValid = true ∧ t.block = (stepOp s.block x.eventOperation).1) ∨
        t.block = (stepOp s.block x.hostOperation).1)) ∨
    t.block = s.block := by
  cases hs : s.inputs with
  | nil =>
    rw [step_of_no_inputs hs] at h
    cases h
    exact .inr (.inr rfl)
  | cons x rest =>
    cases hr : x.rst with
    | true =>
      rw [step_of_reset hs hr] at h
      cases h
      exact .inl ⟨rfl, x, rest, rfl, hr⟩
    | false =>
      cases he : x.evValid with
      | true =>
        rw [step_of_event hs hr he] at h
        cases h
        exact .inr (.inl ⟨x, rest, rfl, hr, .inl ⟨he, rfl⟩⟩)
      | false =>
        cases hc : x.cmdValid with
        | true =>
          rw [step_of_host hs hr he hc] at h
          cases h
          exact .inr (.inl ⟨x, rest, rfl, hr, .inr rfl⟩)
        | false =>
          rw [step_of_quiet hs hr he hc] at h
          cases h
          exact .inr (.inr rfl)

/-! ### The two ports (R73, R168) -/

theorem exec_event (x : Cycle Config.asb1) (s : State) :
    exec (if x.evErr = true then .convErr else .convDone x.evData) s = .next (s.complete (stepOp s.block x.eventOperation)) := by
  rw [exec_eq]
  cases h : x.evErr <;> simp [Cycle.eventOperation, h, Instr.toOp]

/-- Below code 0xC the word `op ++ data` is the operation that the host port presents (R70, R73). -/
theorem exec_host_of_low {x : Cycle Config.asb1} (low : x.cmdOp.toNat < 12) (s : State) :
    exec (decode (joinWord x.cmdOp x.cmdData)) s = .next (s.complete (stepOp s.block x.hostOperation)) := by
  rw [exec_eq, decode, Laws.opField_joinWord, Laws.dataField_joinWord, decodeFields_toOp, Cycle.hostOperation, if_pos low]

/-! ### The statements -/

/-- Settles O34: the block is kept by each operation, and what keeps the block gives no pulse. -/
theorem faultStateIsFrozen : Obligations.FaultStateIsFrozen := by
  intro i s fault
  have kept := stepOp_of_fault fault i.toOp
  obtain ⟨arm, abort⟩ := (stepOp_roundStep s.block i.toOp).noPulse_of_kept kept
  exact ⟨_, exec_eq i s, kept, arm, abort⟩

/-- Settles O35: operations keep a faulted block, and of the two ports only the event port presents the operation that faults. -/
theorem faultIsEnteredByErrorAndLeftByReset : Obligations.FaultIsEnteredByErrorAndLeftByReset := by
  intro s t h
  rcases step_block h with ⟨reset, cycle⟩ | ⟨x, rest, hs, hr, ⟨he, e⟩ | e⟩ | e
  · exact ⟨fun _ => .inr ⟨reset, cycle⟩, fun _ after => absurd after (by rw [reset]; nofun)⟩
  · refine ⟨fun fault => .inl (e.trans (stepOp_of_fault fault _)), fun before after => ?_⟩
    have error := (stepOp_effect s.block x.eventOperation).error_of_fault before (e ▸ after)
    exact ⟨x, rest, hs, hr, he, x.eventOperation_eq_convErr_iff.mp error⟩
  · refine ⟨fun fault => .inl (e.trans (stepOp_of_fault fault _)), fun before after => ?_⟩
    have error := (stepOp_effect s.block x.hostOperation).error_of_fault before (e ▸ after)
    exact absurd error x.hostOperation_ne_convErr
  · exact ⟨fun _ => .inl e, fun before after => absurd ((e ▸ before).symm.trans after) nofun⟩

/-- Settles O5: the steps of the head cycle, the second one on the cycle that the first left with its event port emptied. -/
theorem eventPortPrecedesHostPort : Obligations.EventPortPrecedesHostPort := by
  intro s x rest hs hr
  refine ⟨fun he hc => ?_, fun he hc => ?_, fun he hc low => ?_, fun he hc => step_of_quiet hs hr he hc⟩
  · rw [step_of_event hs hr he, if_neg (by simp [hc]), exec_event]
  · have first := step_of_event hs hr he
    have second := step_of_host (x := { x with evValid := false }) (rest := rest)
      (s := ({ s with inputs := { x with evValid := false } :: rest } : State).complete (stepOp s.block x.eventOperation))
      rfl hr rfl hc
    rw [if_pos hc] at first
    refine ⟨_, _, exec_event x _, first, rfl, rfl, fun low => ?_, fun high => ?_⟩
    · rw [exec_host_of_low low]
      exact second
    · rw [Cycle.hostOperation_of_high (x := { x with evValid := false }) high] at second
      exact second
  · rw [step_of_host hs hr he hc, exec_host_of_low low]

/-- Settles O33: fault entry, and its absorption. -/
theorem conversionErrorEntersFault : Obligations.ConversionErrorEntersFault :=
  fun _ => ⟨fun ok => exec_of_stepOp .convErr (Block.convErr_of_ok ok),
    fun fault => exec_of_stepOp .convErr (Block.gated_of_fault fault _)⟩

end Sys2Proof.Machine
end

section
/-!
SUPPORT. Proofs about the block composed with the reference converter (spec/60_exceptions.md R170 to R172): what the converter owes
as a function of the block, which every move keeps; and how long a round stays in flight, with a fair converter and with none.
-/

namespace Sys2Proof.Machine

variable {c : Config} {b : Block Config.asb1} {σ σ' : System}

/-! ### What the converter owes (R170, R171) -/

/-- What a converter in agreement with the block still owes it: nothing at rest, two completions while the block awaits the sensor
value, one while it awaits the reference value. -/
def Block.owed (b : Block c) : Fin 3 := if b.running then if b.phase then 1 else 2 else 0

theorem Block.owed_of_idle {b : Block c} (idle : b.running = false) : b.owed = 0 := by simp [Block.owed, idle]

theorem Block.owed_of_first {b : Block c} (inFlight : b.running = true) (first : b.phase = false) : b.owed = 2 := by
  simp [Block.owed, inFlight, first]

theorem Block.owed_of_last {b : Block c} (inFlight : b.running = true) (last : b.phase = true) : b.owed = 1 := by
  simp [Block.owed, inFlight, last]

theorem Block.owed_eq_zero_iff (b : Block c) : b.owed = 0 ↔ b.running = false := by
  unfold Block.owed
  split
  · split <;> simp_all
  · simp_all

/-- The invariant of the system: the block's own, and that the converter owes what the block awaits. -/
theorem System.inv_iff : σ.Inv ↔ σ.machine.block.Inv ∧ σ.owed = σ.machine.block.owed := by
  constructor
  · intro ⟨block, owed_running, owed_phase⟩
    refine ⟨block, ?_⟩
    cases running : σ.machine.block.running with
    | false => rw [Block.owed_of_idle running, owed_running, running]
    | true =>
      cases phase : σ.machine.block.phase with
      | true => rw [Block.owed_of_last running phase, owed_phase, phase]
      | false =>
        simp only [running, phase, Bool.true_eq_false, Bool.false_eq_true, iff_false] at owed_running owed_phase
        rw [Block.owed_of_first running phase]
        omega
  · rintro ⟨block, owed⟩
    refine ⟨block, by rw [owed, Block.owed_eq_zero_iff], ?_⟩
    rw [owed]
    cases running : σ.machine.block.running with
    | false => simp [Block.owed_of_idle running, block.idle_phase running]
    | true => cases phase : σ.machine.block.phase <;> simp [Block.owed, running, phase]

/-- A round in flight means that the block is not faulted (R34 (c)). -/
theorem Block.Inv.ok_of_running {b : Block c} (h : b.Inv) (inFlight : b.running = true) : b.fault = false := by
  cases fault : b.fault with
  | false => rfl
  | true =>
    obtain ⟨idle, -⟩ := h.fault_frozen fault
    exact absurd (idle.symm.trans inFlight) nofun

/-- While the converter owes something the block is not faulted and has a round in flight. -/
theorem System.Inv.in_flight (h : σ.Inv) (owes : σ.owed ≠ 0) :
    σ.machine.block.running = true ∧ σ.machine.block.fault = false := by
  have inFlight : σ.machine.block.running = true := by simpa [h.owed_running] using owes
  exact ⟨inFlight, h.block.ok_of_running inFlight⟩

theorem System.Inv.owed_ne_zero (h : σ.Inv) (inFlight : σ.machine.block.running = true) : σ.owed ≠ 0 := by
  simp [h.owed_running, inFlight]

/-! ### The converter obeys the pulses (R170) -/

theorem owedAfter_of_noPulse {out : Outputs Config.asb1} (arm : out.arm = false) (abort : out.abort = false) (k : Fin 3) :
    owedAfter out k = k := by simp [owedAfter, arm, abort]

@[simp] theorem owedAfter_zero (k : Fin 3) : owedAfter Outputs.zero k = k := owedAfter_of_noPulse rfl rfl k

/-- `STOP` and `INIT` take back what is owed, by the `abort` pulse if a round is in flight (R92, R95, R171). -/
theorem owedAfter_aborted (b : Block Config.asb1) : owedAfter (Outputs.aborted b.running) b.owed = 0 := by
  cases running : b.running with
  | true => rfl
  | false => rw [Block.owed_of_idle running]; rfl

/-- A start arms a new round, or adopts the one in flight with what is owed for it (R93, R94, R96). -/
theorem owedAfter_start {b' : Block Config.asb1} (inFlight : b'.running = true) (phase : b'.phase = (b.running && b.phase)) :
    owedAfter (Outputs.armed (!b.running)) b.owed = b'.owed := by
  unfold Block.owed
  cases running : b.running <;> simp [inFlight, phase, running, owedAfter]

/-- No operation of the host loses the agreement. -/
theorem stepOp_owed (b : Block Config.asb1) {o : Op Config.asb1} (notDone : ∀ v, o ≠ .convDone v) (notError : o ≠ .convErr) :
    owedAfter (stepOp b o).2 b.owed = (stepOp b o).1.owed := by
  have gate {r : Block Config.asb1 × Outputs Config.asb1} (acts : b.fault = false → owedAfter r.2 b.owed = r.1.owed) :
      owedAfter (b.gated r).2 b.owed = (b.gated r).1.owed := by
    rcases b.gated_cases r with ⟨-, e⟩ | ⟨ok, e⟩ <;> rw [e]
    · exact owedAfter_zero _
    · exact acts ok
  cases o with
  | convDone v => exact absurd rfl (notDone v)
  | convErr => exact absurd rfl notError
  | init | stop => exact gate fun _ => owedAfter_aborted b
  | startSingle =>
    refine gate fun _ => ?_
    rw [Block.beginRound_eq]
    exact owedAfter_start rfl rfl
  | startCont =>
    refine gate fun _ => ?_
    split
    · exact owedAfter_zero _
    · rw [Block.beginRound_eq]
      exact owedAfter_start rfl rfl
  | rdSens idx =>
    obtain ⟨arm, abort⟩ := b.directRead_noPulse .sens idx
    exact owedAfter_of_noPulse arm abort _
  | rdRef idx =>
    obtain ⟨arm, abort⟩ := b.directRead_noPulse .ref idx
    exact owedAfter_of_noPulse arm abort _
  | getSingle =>
    simp only [stepOp, Block.getSingle, Block.consume_eq]
    exact owedAfter_of_noPulse rfl rfl _
  | nop | isRunning | isReady | getAvg | rdStatus | illegal => exact owedAfter_of_noPulse rfl rfl _

/-- A completion that is owed is taken off before the block's answer arms the next round (R170). -/
theorem convDone_owed (inFlight : b.running = true) (ok : b.fault = false) (v : Data) :
    owedAfter (b.convDone v).2 (b.owed - 1) = (b.convDone v).1.owed := by
  cases phase : b.phase with
  | false =>
    rw [Block.convDone_of_first ok inFlight phase, Block.owed_of_first inFlight phase,
      Block.owed_of_last (b := b.latchSensor v) inFlight rfl]
    rfl
  | true =>
    rw [Block.owed_of_last inFlight phase]
    cases mode : b.cont with
    | true =>
      rw [Block.convDone_of_continuous ok inFlight phase mode, Block.owed_of_first (b := b.endContinuous v) inFlight rfl]
      rfl
    | false =>
      rw [Block.convDone_of_single ok inFlight phase mode, Block.owed_of_idle (b := b.endSingle v) rfl]
      rfl

/-- An operation of the host port or a reserved one is no event of the converter (R73). -/
theorem toOp_ne_event {i : Instr} (hi : i.port ≠ .event) : (∀ v, i.toOp ≠ .convDone v) ∧ i.toOp ≠ .convErr := by
  refine ⟨fun v h => hi ?_, fun h => hi ?_⟩
  · rw [toOp_eq_convDone_iff.mp h]
    rfl
  · rw [toOp_injective (a₂ := .convErr) h]
    rfl

/-- Every move keeps the invariant of the system: reset and the operations keep the block's own, and what is owed stays what the
block awaits. -/
theorem System.Inv.move {m : Move} (h : σ.Inv) (run : σ.move m = some σ') : σ'.Inv := by
  obtain ⟨block, owed⟩ := System.inv_iff.mp h
  rw [System.inv_iff]
  rcases System.move_cases run with ⟨-, rfl⟩ | ⟨i, k, kind, rfl⟩
  · exact ⟨Block.reset_inv _, rfl⟩
  · refine ⟨stepOp_inv block i.toOp, ?_⟩
    rcases kind with ⟨-, hostOperation, rfl⟩ | ⟨v, -, rfl, owes, rfl⟩ | ⟨-, rfl, owes, rfl⟩
    · obtain ⟨notDone, notError⟩ := toOp_ne_event hostOperation
      rw [owed]
      exact stepOp_owed _ notDone notError
    · obtain ⟨inFlight, ok⟩ := h.in_flight owes
      rw [owed]
      exact convDone_owed inFlight ok v
    · obtain ⟨-, ok⟩ := h.in_flight owes
      simp only [State.complete_block, Instr.toOp, stepOp, Block.convErr_of_ok ok]
      rfl

/-! ### The end of a wait by the host (R92, R95, R171, R172) -/

/-- `STOP` and `INIT` leave no round in flight (R92, R95). -/
theorem stepOp_ending_idle {b : Block c} (ok : b.fault = false) {o : Op c} (ending : o = .stop ∨ o = .init) :
    (stepOp b o).1.running = false := by
  rcases ending with rfl | rfl
  · rw [stepOp, Block.stop_of_ok ok]
    rfl
  · rw [stepOp, Block.init_of_ok ok]
    rfl

/-- Under the invariant they do so in every state, for a faulted block has none in flight (R34 (c)). -/
theorem Block.Inv.ending_idle {b : Block c} (h : b.Inv) {o : Op c} (ending : o = .stop ∨ o = .init) :
    (stepOp b o).1.running = false := by
  cases fault : b.fault with
  | false => exact stepOp_ending_idle fault ending
  | true =>
    obtain ⟨idle, -⟩ := h.fault_frozen fault
    rw [stepOp_of_fault fault, idle]

theorem toOp_ending {i : Instr} (ending : i = .stop ∨ i = .init) : i.toOp = .stop ∨ i.toOp = .init :=
  ending.imp toOp_eq_stop_iff.mpr toOp_eq_init_iff.mpr

/-- The host may issue what is no event of the converter, in every state of the system. -/
theorem System.move_host (σ : System) {i : Instr} (hi : i.port ≠ .event) :
    σ.move (.host i) = some
      { machine := σ.machine.complete (stepOp σ.machine.block i.toOp)
        owed := owedAfter (stepOp σ.machine.block i.toOp).2 σ.owed } := by
  simp only [System.move, if_neg hi, System.perform, exec_eq, State.complete_out]

/-- A converter that owes nothing delivers no completion. -/
theorem System.move_done_of_none_owed (h : σ.owed = 0) (v : Data) : σ.move (.done v) = none := if_pos h

/-- What a completion of the converter is: one that the block, not faulted and with a round in flight, takes as it is. -/
theorem System.Inv.move_done (h : σ.Inv) {v : Data} (run : σ.move (.done v) = some σ') :
    σ.machine.block.running = true ∧ σ.machine.block.fault = false ∧
      σ'.machine.block = (σ.machine.block.convDone v).1 := by
  rcases System.move_cases run with ⟨⟨⟩, -⟩ | ⟨i, k, ⟨⟨⟩, -⟩ | ⟨_, ⟨⟩, rfl, owes, -⟩ | ⟨⟨⟩, -⟩, rfl⟩
  obtain ⟨inFlight, ok⟩ := h.in_flight owes
  exact ⟨inFlight, ok, rfl⟩

/-- What an error of the converter is: one that takes the block to the fault. -/
theorem System.Inv.move_error (h : σ.Inv) (run : σ.move .error = some σ') :
    σ'.machine.block = σ.machine.block.enterFault := by
  rcases System.move_cases run with ⟨⟨⟩, -⟩ | ⟨i, k, ⟨⟨⟩, -⟩ | ⟨_, ⟨⟩, -⟩ | ⟨-, rfl, owes, -⟩, rfl⟩
  obtain ⟨-, ok⟩ := h.in_flight owes
  exact congrArg Prod.fst (Block.convErr_of_ok ok)

/-- What an operation of the host is, when it may issue it. -/
theorem System.move_host_block {i : Instr} (run : σ.move (.host i) = some σ') :
    i.port ≠ .event ∧ σ'.machine.block = (stepOp σ.machine.block i.toOp).1 := by
  rcases System.move_cases run with ⟨⟨⟩, -⟩ | ⟨i, k, ⟨⟨⟩, hi, -⟩ | ⟨_, ⟨⟩, -⟩ | ⟨⟨⟩, -⟩, rfl⟩
  exact ⟨hi, rfl⟩

/-! ### The wait without the converter (R172) -/

/-- Nothing but a converter event, `STOP` and `INIT` ends the round in flight. -/
theorem Block.Effect.in_flight {b b' : Block c} {o : Op c} (h : b.Effect o b') (inFlight : b.running = true)
    (notDone : ∀ v, o ≠ .convDone v) (notError : o ≠ .convErr) (notEnding : ¬(o = .stop ∨ o = .init)) :
    b'.running = true := by
  cases h with
  | keeps | consume => exact inFlight
  | startSingle | freshEntry => rfl
  | stop => exact absurd (.inl rfl) notEnding
  | init => exact absurd (.inr rfl) notEnding
  | latch v | endContinuous v | endSingle v => exact absurd rfl (notDone v)
  | error => exact absurd rfl notError

theorem execAll_waits {ops : List Instr} {s : State} (inFlight : s.block.running = true)
    (waits : ∀ i ∈ ops, i.port ≠ .event ∧ i ≠ .stop ∧ i ≠ .init) :
    ∃ t, execAll ops s = .next t ∧ t.block.running = true := by
  induction ops generalizing s with
  | nil => exact ⟨s, rfl, inFlight⟩
  | cons i ops ih =>
    obtain ⟨⟨hi, notStop, notInit⟩, rest⟩ := List.forall_mem_cons.mp waits
    obtain ⟨notDone, notError⟩ := toOp_ne_event hi
    have notEnding : ¬(i.toOp = .stop ∨ i.toOp = .init) :=
      not_or.mpr ⟨mt toOp_eq_stop_iff.mp notStop, mt toOp_eq_init_iff.mp notInit⟩
    rw [execAll_cons]
    exact ih ((stepOp_effect s.block i.toOp).in_flight inFlight notDone notError notEnding) rest

/-! ### The wait with a fair converter (R172, R215) -/

/-- Reads, `NOP` and the reserved codes write `ready` at most (R40). -/
theorem mayWrite_of_leavesSession {i : Instr} (hi : i.port ≠ .event) (leaves : (Move.host i).leavesSession = true)
    {f : Field} (hf : f ≠ .ready) : f ∉ i.mayWrite := by
  cases i with
  | init | startSingle | startCont | stop => exact absurd leaves (by decide)
  | convDone | convErr => exact absurd rfl hi
  | getSingle => simpa [Instr.mayWrite] using hf
  | nop | isRunning | isReady | getAvg | rdStatus | rdSens | rdRef | reservedE | reservedF => exact List.not_mem_nil

/-- Between two rounds in continuous mode `ready` is set, or the cursor has come one further (R112). -/
theorem Block.endContinuous_advances (b : Block c) (v : BitVec c.w) :
    (b.endContinuous v).ready = true ∨ (b.endContinuous v).cur.val = b.cur.val + 1 := by
  have below := b.cur.isLt
  by_cases last : b.cur.val + 1 = c.n
  · have wraps : (nextIndex b.cur).val = 0 := by rw [nextIndex_val, last, Nat.mod_self]
    exact .inl (by simp [Block.endContinuous, Block.wrappedAfter, wraps])
  · exact .inr ((nextIndex_val b.cur).trans (Nat.mod_eq_of_lt (by omega)))

/-- What a step of a run that leaves the session alone makes of the round in flight: it goes on; or the next round of the same
session follows it, with `ready` risen or the cursor one further; or it ends, with `ready` or `fault` risen. -/
inductive RoundGoes (σ : Nat → System) (m : Nat → Move) (n : Nat) : Prop where
  | on (notEnd : ¬EndsRound σ m n) (running : (σ (n + 1)).machine.block.running = true)
      (cont : (σ (n + 1)).machine.block.cont = (σ n).machine.block.cont)
      (cur : (σ (n + 1)).machine.block.cur = (σ n).machine.block.cur)
  | next (running : (σ (n + 1)).machine.block.running = true)
      (cont : (σ (n + 1)).machine.block.cont = (σ n).machine.block.cont)
      (mode : (σ n).machine.block.cont = true)
      (advances : (σ (n + 1)).machine.block.ready = true ∨
        (σ (n + 1)).machine.block.cur.val = (σ n).machine.block.cur.val + 1)
  | ends (idle : (σ (n + 1)).machine.block.running = false)
      (risen : (σ (n + 1)).machine.block.ready = true ∨ (σ (n + 1)).machine.block.fault = true)

section Run

variable {σ : Nat → System} {m : Nat → Move} {n : Nat}

theorem not_endsRound_of_host {i : Instr} (move : m n = .host i) : ¬EndsRound σ m n := by
  simp [EndsRound, move]

theorem roundGoes_of_done {v : Data} (inv : (σ n).Inv) (run : System.IsRun σ m) (move : m n = .done v) : RoundGoes σ m n := by
  have step := run n
  rw [move] at step
  obtain ⟨inFlight, ok, after⟩ := inv.move_done step
  cases phase : (σ n).machine.block.phase with
  | false =>
    have notLast : (σ n).owed ≠ 1 := by simp [inv.owed_phase, phase]
    rw [Block.convDone_of_first ok inFlight phase] at after
    exact .on (by simp [EndsRound, move, notLast]) (by rw [after]; exact inFlight) (by rw [after]; rfl) (by rw [after]; rfl)
  | true =>
    cases mode : (σ n).machine.block.cont with
    | true =>
      rw [Block.convDone_of_continuous ok inFlight phase mode] at after
      exact .next (by rw [after]; exact inFlight) (by rw [after]; rfl) mode
        (by rw [after]; exact Block.endContinuous_advances _ v)
    | false =>
      rw [Block.convDone_of_single ok inFlight phase mode] at after
      exact .ends (by rw [after]; rfl) (.inl (by rw [after]; rfl))

/-- A round in flight goes one of the three ways of `RoundGoes`. -/
theorem roundGoes (inv : (σ n).Inv) (run : System.IsRun σ m) (inFlight : (σ n).machine.block.running = true)
    (leaves : (m n).leavesSession = true) : RoundGoes σ m n := by
  have step := run n
  cases move : m n with
  | reset => rw [move] at leaves; exact absurd leaves nofun
  | done v => exact roundGoes_of_done inv run move
  | error =>
    rw [move] at step
    have after := inv.move_error step
    exact .ends (by rw [after]; rfl) (.inr (by rw [after]; rfl))
  | host i =>
    rw [move] at step leaves
    obtain ⟨hi, after⟩ := System.move_host_block step
    have same {f : Field} (hf : f ≠ .ready) : Block.agree f (σ n).machine.block (σ (n + 1)).machine.block := by
      rw [after]
      exact (stepOp_effect _ _).agree (by rw [toOp_mayWrite]; exact mayWrite_of_leavesSession hi leaves hf)
    exact .on (not_endsRound_of_host move) ((same (f := .running) nofun).trans inFlight) (same (f := .cont) nofun)
      (same (f := .cur) nofun)

theorem System.IsRun.inv (run : System.IsRun σ m) (start : (σ 0).Inv) (n : Nat) : (σ n).Inv := by
  induction n with
  | zero => exact start
  | succ n ih => exact ih.move (run n)

/-- The wait that starts at `n` is over at `k`: `ready` or `fault` has risen, and a single round has ended. -/
def WaitOver (σ : Nat → System) (n k : Nat) : Prop :=
  n < k ∧ ((σ k).machine.readyO = true ∨ (σ k).machine.faultO = true) ∧
    ((σ n).machine.block.cont = false → (σ k).machine.runningO = false)

/-! What would follow if the wait were never over. -/

variable (run : System.IsRun σ m) (start : (σ 0).Inv) (inFlight : (σ n).machine.block.running = true)
  (leaves : ∀ k, n ≤ k → (m k).leavesSession = true) (waiting : ∀ k, ¬WaitOver σ n k)

include run start inFlight leaves waiting

/-- A round of the same session would be in flight for ever. -/
theorem waiting_in_flight {k : Nat} (after : n ≤ k) :
    (σ k).machine.block.running = true ∧ (σ k).machine.block.cont = (σ n).machine.block.cont := by
  induction k, after using Nat.le_induction with
  | base => exact ⟨inFlight, rfl⟩
  | succ k after ih =>
    obtain ⟨running, cont⟩ := ih
    cases roundGoes (run.inv start k) run running (leaves k after) with
    | on _ running' cont' => exact ⟨running', cont'.trans cont⟩
    | next running' cont' => exact ⟨running', cont'.trans cont⟩
    | ends idle risen => exact absurd ⟨Nat.lt_succ_of_le after, risen, fun _ => idle⟩ (waiting (k + 1))

/-- The end of a round would move the cursor one further, and nothing else would move it. -/
theorem waiting_cur_succ {k : Nat} (after : n ≤ k) :
    (¬EndsRound σ m k ∧ (σ (k + 1)).machine.block.cur.val = (σ k).machine.block.cur.val) ∨
      (σ (k + 1)).machine.block.cur.val = (σ k).machine.block.cur.val + 1 := by
  obtain ⟨running, cont⟩ := waiting_in_flight run start inFlight leaves waiting after
  cases roundGoes (run.inv start k) run running (leaves k after) with
  | on notEnd _ _ cur => exact .inl ⟨notEnd, congrArg Fin.val cur⟩
  | next _ _ mode advances =>
    refine .inr (advances.resolve_left fun ready => waiting (k + 1) ⟨Nat.lt_succ_of_le after, .inl ready, fun single => ?_⟩)
    exact absurd (mode.symm.trans (cont.trans single)) nofun
  | ends idle risen => exact absurd ⟨Nat.lt_succ_of_le after, risen, fun _ => idle⟩ (waiting (k + 1))

theorem waiting_cur_mono {j k : Nat} (after : n ≤ j) (later : j ≤ k) :
    (σ j).machine.block.cur.val ≤ (σ k).machine.block.cur.val := by
  induction k, later using Nat.le_induction with
  | base => exact le_rfl
  | succ k later ih =>
    rcases waiting_cur_succ run start inFlight leaves waiting (after.trans later) with ⟨-, same⟩ | further <;> omega

/-- With a fair converter, rounds would end without end, and the cursor pass every bound. -/
theorem waiting_cur_unbounded (fair : ConverterFair σ m) (bound : Nat) :
    ∃ k, n ≤ k ∧ bound ≤ (σ k).machine.block.cur.val := by
  induction bound with
  | zero => exact ⟨n, le_rfl, Nat.zero_le _⟩
  | succ bound ih =>
    obtain ⟨k, after, reached⟩ := ih
    have owes {j : Nat} (hj : n ≤ j) : (σ j).owed ≠ 0 := by
      obtain ⟨running, -⟩ := waiting_in_flight run start inFlight leaves waiting hj
      exact (run.inv start j).owed_ne_zero running
    obtain ⟨j, later, ended | none_owed⟩ := fair k (owes after)
    · have mono := waiting_cur_mono run start inFlight leaves waiting after later
      rcases waiting_cur_succ run start inFlight leaves waiting (after.trans later) with ⟨notEnd, -⟩ | further
      · exact absurd ended notEnd
      · exact ⟨j + 1, by omega, by omega⟩
    · exact absurd none_owed (owes (after.trans later))

end Run

/-! ### The statements -/

/-- Settles O49: by the invariant as an equation for what is owed. -/
theorem everyMoveKeepsSystemInvariant : Obligations.EveryMoveKeepsSystemInvariant := fun _ _ _ h => h.move

/-- Settles O50: what is owed is owed to a round in flight, and `STOP` and `INIT` leave none. -/
theorem referenceConverterIsNeverSpurious : Obligations.ReferenceConverterIsNeverSpurious := by
  refine ⟨fun σ σ' v h run => ?_, fun σ i v h ending => ?_⟩
  · obtain ⟨inFlight, ok, after⟩ := h.move_done run
    refine ⟨inFlight, ok, fun first => ?_, fun last => ?_⟩
    · rw [after, Block.convDone_of_first ok inFlight first]
      exact ⟨rfl, rfl⟩
    · obtain ⟨mem, -⟩ := σ.machine.block.finishRound_frame v
      obtain ⟨-, stored, -⟩ := σ.machine.block.mem.read_writePair σ.machine.block.cur σ.machine.block.hold v
      rw [after, Block.convDone_of_last ok inFlight last, mem, stored]
  · have hi : i.port ≠ .event := by rcases ending with rfl | rfl <;> decide
    have run := σ.move_host hi
    have idle := h.block.ending_idle (toOp_ending ending)
    have none_owed := (h.move run).owed_running.mpr idle
    exact ⟨_, run, System.move_done_of_none_owed none_owed v⟩

/-- Settles O59: no operation but the two ends the round, and each of the two does. -/
theorem blockWaitsWithoutConverter : Obligations.BlockWaitsWithoutConverter :=
  fun s inFlight => ⟨fun _ => execAll_waits inFlight,
    fun ok i ending => ⟨_, exec_eq i s, stepOp_ending_idle ok (toOp_ending ending)⟩⟩

/-- Settles O58: a wait that is never over would move the cursor past the buffer. -/
theorem fairConverterEndsTheWait : Obligations.FairConverterEndsTheWait := by
  intro σ m run start fair n inFlight leaves
  by_contra never
  obtain ⟨k, -, beyond⟩ := waiting_cur_unbounded run start inFlight leaves (not_exists.mp never) fair 8
  exact absurd (σ k).machine.block.cur_lt beyond.not_gt

/-- Settles O48: at reset no round is in flight and nothing is owed. -/
theorem systemInvariantHoldsAtReset : Obligations.SystemInvariantHoldsAtReset :=
  System.inv_iff.mpr ⟨Block.reset_inv _, rfl⟩

end Sys2Proof.Machine
end

section
/-!
SUPPORT. Host loop proofs (spec/60_exceptions.md R175, R177, R189): what the host reads is the calibration itself, and one tick with a
fresh result as reading, move and start.
-/

namespace Sys2Proof.Machine

variable {c : Config} {th : Thresholds} {x : Controlled}

/-! ### The host's reading (R78, R175) -/

/-- `rsp.val` as a signed number is the last reading (R147). -/
theorem Block.reading_getSingle (b : Block c) : b.getSingle.2.reading = b.lastReading :=
  congrArg (CalibResult.mk b.lastReading.dz) (toInt_calib_outputs (b.mem.read_le_maxSum _ _) (b.mem.read_le_maxSum _ _))

theorem Block.reading_getAvg (b : Block c) : b.getAvg.2.reading = b.averageReading :=
  congrArg (CalibResult.mk b.averageReading.dz) (toInt_calib_outputs (b.mem.sum_le_maxSum _) (b.mem.sum_le_maxSum _))

/-- The reading a mode decides by (R177). -/
def OperatingMode.reading (m : OperatingMode) (b : Block c) : CalibResult :=
  match m with
  | .active => b.averageReading
  | .idle | .fault => b.lastReading

theorem OperatingMode.reading_getter (m : OperatingMode) (b : Block Config.asb1) :
    (stepOp b m.getter.toOp).2.reading = m.reading b := by
  cases m with
  | idle | fault => exact b.reading_getSingle
  | active => exact b.reading_getAvg

theorem OperatingMode.observe_of_proper {r : CalibResult} (proper : r.dz = false) (m : OperatingMode) :
    m.observe th r = m.next th r.val := if_neg (by simp [proper])

/-! ### One tick (R177, R178) -/

theorem Controlled.issue_nil (x : Controlled) : x.issue [] = some x := rfl

theorem Controlled.issue_one (x : Controlled) (i : Instr) :
    x.issue [i] = some { x with machine := x.machine.complete (stepOp x.machine.block i.toOp) } := by
  simp only [Controlled.issue, execAll_cons, execAll_nil]

/-- The host after it has taken its mode's reading and moved to the mode `m`. -/
def Controlled.moved (x : Controlled) (m : OperatingMode) : Controlled :=
  { mode := m, machine := x.machine.complete (stepOp x.machine.block x.mode.getter.toOp) }

/-- With a fresh result that is no degenerate one, the tick is the reading, the move of R177, and the start of that move. -/
theorem Controlled.tick_of_fresh (ok : x.machine.faultO = false) (fresh : x.machine.readyO = true)
    (proper : (x.mode.reading x.machine.block).dz = false) {m : OperatingMode}
    (move : x.mode.next th (x.mode.reading x.machine.block).val = m) :
    x.tick th = (x.moved m).issue (OperatingMode.onTransition x.mode m) := by
  have taken : x.mode.observe th (stepOp x.machine.block x.mode.getter.toOp).2.reading = m := by
    rw [OperatingMode.reading_getter, OperatingMode.observe_of_proper proper, move]
  rw [Controlled.tick, if_neg (by simp [ok]), if_pos fresh, Controlled.sample, Controlled.issue_one, Option.bind_some]
  simp only [State.complete_out, taken]
  rfl

theorem Controlled.tick_of_kept (ok : x.machine.faultO = false) (fresh : x.machine.readyO = true)
    (proper : (x.mode.reading x.machine.block).dz = false) {m : OperatingMode}
    (move : x.mode.next th (x.mode.reading x.machine.block).val = m) (issues : OperatingMode.onTransition x.mode m = []) :
    x.tick th = some (x.moved m) := by
  rw [Controlled.tick_of_fresh ok fresh proper move, issues, Controlled.issue_nil]

theorem Controlled.tick_of_start (ok : x.machine.faultO = false) (fresh : x.machine.readyO = true)
    (proper : (x.mode.reading x.machine.block).dz = false) {m : OperatingMode}
    (move : x.mode.next th (x.mode.reading x.machine.block).val = m) {i : Instr}
    (issues : OperatingMode.onTransition x.mode m = [i]) :
    x.tick th = some
      { x.moved m with machine := (x.moved m).machine.complete (stepOp (x.moved m).machine.block i.toOp) } := by
  rw [Controlled.tick_of_fresh ok fresh proper move, issues, Controlled.issue_one]

/-- Without a fresh result the mode stays, whatever is started (R178). -/
theorem Controlled.tick_of_stale (ok : x.machine.faultO = false) (stale : x.machine.readyO = false) :
    ∃ y, x.tick th = some y ∧ y.mode = x.mode := by
  obtain ⟨t, -, issued⟩ := x.issue_eq (x.mode.tick x.machine.block)
  exact ⟨{ x with machine := t }, by simp [Controlled.tick, ok, stale, issued], rfl⟩

/-! ### The moves of each mode on a fresh result (R177) -/

section Fresh

variable {s : State}

@[simp] theorem Block.consume_fault (b : Block c) : b.consume.fault = b.fault := by rw [Block.consume_eq]

@[simp] theorem Block.consume_cont (b : Block c) : b.consume.cont = b.cont := by rw [Block.consume_eq]

variable (ok : s.faultO = false) (fresh : s.readyO = true)

include ok fresh

theorem Controlled.tick_idle_of_reached (proper : s.block.lastReading.dz = false) (outside : s.block.cont = false)
    (reached : th.activation ≤ s.block.lastReading.val) :
    ∃ y, Controlled.tick th ⟨.idle, s⟩ = some y ∧ y.mode = .active ∧ y.machine.runningO = true ∧
      y.machine.block.cont = true ∧ y.machine.block.cur.val = 0 := by
  have entry := Block.startCont_of_fresh (s.block.consume_fault.trans ok) (s.block.consume_cont.trans outside)
  exact ⟨_, Controlled.tick_of_start (x := ⟨.idle, s⟩) ok fresh proper (if_pos reached) rfl, rfl,
    congrArg (fun r => r.1.running) entry, congrArg (fun r => r.1.cont) entry, congrArg (fun r => r.1.cur.val) entry⟩

theorem Controlled.tick_idle_of_below (proper : s.block.lastReading.dz = false)
    (below : s.block.lastReading.val < th.activation) :
    ∃ y, Controlled.tick th ⟨.idle, s⟩ = some y ∧ y.mode = .idle ∧ y.machine.readyO = false :=
  ⟨_, Controlled.tick_of_kept (x := ⟨.idle, s⟩) ok fresh proper (if_neg below.not_ge) rfl, rfl, Block.ready_consume_of_ok ok⟩

theorem Controlled.tick_active_of_below (proper : s.block.averageReading.dz = false)
    (notAbove : s.block.averageReading.val ≤ th.ceiling) (below : s.block.averageReading.val < th.activation) :
    ∃ y, Controlled.tick th ⟨.active, s⟩ = some y ∧ y.mode = .idle ∧ y.machine.runningO = true ∧
      y.machine.block.cont = false ∧ y.machine.readyO = false := by
  have move : OperatingMode.next th .active s.block.averageReading.val = .idle :=
    (if_neg notAbove.not_gt).trans (if_pos below)
  have single := Block.startSingle_of_ok ok
  exact ⟨_, Controlled.tick_of_start (x := ⟨.active, s⟩) ok fresh proper move rfl, rfl, congrArg (fun r => r.1.running) single,
    congrArg (fun r => r.1.cont) single, congrArg (fun r => r.1.ready) single⟩

theorem Controlled.tick_active_of_above (proper : s.block.averageReading.dz = false)
    (above : th.ceiling < s.block.averageReading.val) :
    ∃ y, Controlled.tick th ⟨.active, s⟩ = some y ∧ y.mode = .fault ∧ y.machine.block = s.block :=
  ⟨_, Controlled.tick_of_kept (x := ⟨.active, s⟩) ok fresh proper (if_pos above) rfl, rfl, rfl⟩

theorem Controlled.tick_active_of_within (proper : s.block.averageReading.dz = false)
    (notBelow : th.activation ≤ s.block.averageReading.val) (notAbove : s.block.averageReading.val ≤ th.ceiling) :
    ∃ y, Controlled.tick th ⟨.active, s⟩ = some y ∧ y.mode = .active ∧ y.machine.block = s.block := by
  have move : OperatingMode.next th .active s.block.averageReading.val = .active :=
    (if_neg notAbove.not_gt).trans (if_neg notBelow.not_gt)
  exact ⟨_, Controlled.tick_of_kept (x := ⟨.active, s⟩) ok fresh proper move rfl, rfl, rfl⟩

theorem Controlled.tick_fault (proper : s.block.lastReading.dz = false) {m : OperatingMode}
    (move : OperatingMode.next th .fault s.block.lastReading.val = m) :
    ∃ y, Controlled.tick th ⟨.fault, s⟩ = some y ∧ y.machine.readyO = false ∧ y.mode = m := by
  have silent : OperatingMode.onTransition .fault m = [] := by cases m <;> rfl
  exact ⟨_, Controlled.tick_of_kept (x := ⟨.fault, s⟩) ok fresh proper move silent, Block.ready_consume_of_ok ok, rfl⟩

end Fresh

/-! ### The statements -/

/-- Settles O60: mode by mode, on either side of each threshold; the activation threshold being at most the ceiling, an average below
it is not above the ceiling. -/
theorem powerModeFollowsFreshReadings : Obligations.PowerModeFollowsFreshReadings := by
  rintro th ⟨mode, s⟩ ordered ok
  refine ⟨Controlled.tick_of_stale ok, fun fresh => ⟨?_, ?_, ?_⟩⟩
  · rintro rfl proper outside
    rcases lt_or_ge s.block.lastReading.val th.activation with below | reached
    · obtain ⟨y, tick, after⟩ := Controlled.tick_idle_of_below ok fresh proper below
      exact ⟨y, tick, fun reached => absurd below reached.not_gt, fun _ => after⟩
    · obtain ⟨y, tick, after⟩ := Controlled.tick_idle_of_reached ok fresh proper outside reached
      exact ⟨y, tick, fun _ => after, fun below => absurd below reached.not_gt⟩
  · rintro rfl proper
    rcases lt_or_ge s.block.averageReading.val th.activation with below | notBelow
    · have notAbove := below.le.trans ordered
      obtain ⟨y, tick, after⟩ := Controlled.tick_active_of_below ok fresh proper notAbove below
      exact ⟨y, tick, fun _ => after, fun above => absurd above notAbove.not_gt,
        fun notBelow => absurd below notBelow.not_gt⟩
    · rcases lt_or_ge th.ceiling s.block.averageReading.val with above | notAbove
      · obtain ⟨y, tick, after⟩ := Controlled.tick_active_of_above ok fresh proper above
        exact ⟨y, tick, fun below => absurd below notBelow.not_gt, fun _ => after,
          fun _ notAbove => absurd above notAbove.not_gt⟩
      · obtain ⟨y, tick, after⟩ := Controlled.tick_active_of_within ok fresh proper notBelow notAbove
        exact ⟨y, tick, fun below => absurd below notBelow.not_gt, fun above => absurd above notAbove.not_gt,
          fun _ _ => after⟩
  · rintro rfl proper
    rcases lt_or_ge s.block.lastReading.val th.ceiling with below | notBelow
    · obtain ⟨y, tick, taken, mode⟩ := Controlled.tick_fault ok fresh proper (if_pos below)
      exact ⟨y, tick, taken, fun _ => mode, fun notBelow => absurd below notBelow.not_gt⟩
    · obtain ⟨y, tick, taken, mode⟩ := Controlled.tick_fault ok fresh proper (if_neg notBelow.not_gt)
      exact ⟨y, tick, taken, fun below => absurd below notBelow.not_gt, fun _ => mode⟩

/-- Settles O52: the five readings of R189 in units of `2^-8` degrees, against its two thresholds. -/
theorem powerModeTransitions : Obligations.PowerModeTransitions := by
  rintro _ rfl
  decide

end Sys2Proof.Machine
end

section
/-!
SUPPORT. Reset and hazard proofs (spec/70_reset_and_hazards.md R200 to R217): the answers of the reset block, a late completion
after `STOP` or `INIT`, the end of a single round with the reference converter, and the runs, which begin with a reset step.
-/

namespace Sys2Proof.Machine

variable {c : Config} {b : Block c}

/-! ### The reset block (R205) -/

theorem Block.status_reset (c : Config) : (Block.reset c).status = 0 :=
  BitVec.eq_of_toNat_eq (Block.toNat_status _)

theorem Block.directRead_reset (sp : Space) {idx : BitVec c.w} (below : idx.toNat < c.n) :
    (Block.reset c).directRead sp idx = Outputs.zero := by
  have zero : (Block.reset c).mem.read sp ⟨idx.toNat, below⟩ = 0 := Memory.read_zero _ _
  rw [Block.directRead_of_lt _ sp (k := ⟨idx.toNat, below⟩) rfl, zero]
  rfl

/-- The word before the cursor is a zero reference (R144). -/
theorem Block.lastReading_reset (c : Config) : (Block.reset c).lastReading = { dz := true, val := c.tmin } := by
  have zero (sp : Space) (k : Fin c.n) : (Block.reset c).mem.read sp k = 0 := Memory.read_zero sp k
  rw [Block.lastReading, zero .ref]
  exact calib_zero c _

/-- And so is the sum of the whole buffer (R144, R146). -/
theorem Block.averageReading_reset (c : Config) : (Block.reset c).averageReading = { dz := true, val := c.tmin } := by
  have zero : (Block.reset c).mem.sum .ref = 0 := (Memory.sum_eq_zero_iff _ _).mpr (Memory.read_zero _)
  rw [Block.averageReading, zero, calib_zero]

/-! ### A late completion (R209) -/

/-- Without a fault `STOP` and `INIT` leave no round and no session (R92, R95). -/
theorem exec_ending_at_rest {s : State} {i : Instr} (ok : s.block.fault = false) (ending : i = .stop ∨ i = .init) :
    ∃ t, exec i s = .next t ∧ t.block.fault = false ∧ t.block.running = false ∧ t.block.cont = false := by
  rcases ending with rfl | rfl
  · exact ⟨_, exec_of_stepOp .stop (Block.stop_of_ok ok), ok, rfl, rfl⟩
  · exact ⟨_, exec_of_stepOp .init (Block.init_of_ok ok), rfl, rfl, rfl⟩

/-- A start from rest begins a round that awaits its sensor value, in the mode of the start (R93, R94). -/
theorem exec_start_from_rest {s : State} {j : Instr} (ok : s.block.fault = false) (atRest : s.block.running = false)
    (outside : s.block.cont = false) (start : j = .startSingle ∨ j = .startCont) :
    ∃ m, exec j s = .next m ∧ m.block.fault = false ∧ m.block.running = true ∧ m.block.phase = false ∧
      m.block.cont = decide (j = .startCont) := by
  have first : (s.block.running && s.block.phase) = false := by rw [atRest, Bool.false_and]
  rcases start with rfl | rfl
  · exact ⟨_, exec_of_stepOp .startSingle (Block.startSingle_of_ok ok), ok, rfl, first, rfl⟩
  · exact ⟨_, exec_of_stepOp .startCont (Block.startCont_of_fresh ok outside), ok, rfl, first, rfl⟩

/-- The completion after the last one of a round: dropped in single mode, the next sensor value in a session (R110, R111, R112). -/
theorem Block.convDone_finishRound (ok : b.fault = false) (inFlight : b.running = true) (v w : BitVec c.w) :
    (b.cont = false → ((b.finishRound v).1.convDone w).1 = (b.finishRound v).1) ∧
      (b.cont = true → ((b.finishRound v).1.convDone w).1 = (b.finishRound v).1.latchSensor w) := by
  refine ⟨fun single => ?_, fun continuous => ?_⟩
  · rw [Block.finishRound_of_single single, Block.convDone_of_dropped (.inr rfl)]
  · rw [Block.finishRound_of_continuous continuous, Block.convDone_of_first (b := b.endContinuous v) ok inFlight rfl]

/-- Three completions from a round that awaits its sensor value on: the first is stored as the sensor value, the second beside it as
the reference value, and the third is dropped in single mode and the next sensor value in a session. -/
theorem exec_three_completions {m : State} (ok : m.block.fault = false) (inFlight : m.block.running = true)
    (first : m.block.phase = false) (v₁ v₂ v₃ : Data) :
    ∃ u, exec (.convDone v₁) m = .next u ∧ u.block = m.block.latchSensor v₁ ∧
      ∃ x, exec (.convDone v₂) u = .next x ∧ x.block.mem.read .sens u.block.cur = v₁ ∧
        x.block.mem.read .ref u.block.cur = v₂ ∧
        ∃ y, exec (.convDone v₃) x = .next y ∧ (m.block.cont = false → y.block = x.block) ∧
          (m.block.cont = true → y.block.phase = true ∧ y.block.hold = v₃) := by
  obtain ⟨mem, -⟩ := (m.block.latchSensor v₁).finishRound_frame v₂
  obtain ⟨sens, ref, -⟩ := m.block.mem.read_writePair m.block.cur v₁ v₂
  obtain ⟨single, continuous⟩ := Block.convDone_finishRound (b := m.block.latchSensor v₁) ok inFlight v₂ v₃
  refine ⟨_, exec_of_stepOp (.convDone v₁) (Block.convDone_of_first ok inFlight first v₁), rfl,
    _, exec_of_stepOp (.convDone v₂) (Block.convDone_of_last (b := m.block.latchSensor v₁) ok inFlight rfl v₂),
    (congrArg (·.read .sens m.block.cur) mem).trans sens, (congrArg (·.read .ref m.block.cur) mem).trans ref,
    _, exec_eq _ _, single, fun mode => ?_⟩
  have after := continuous mode
  exact ⟨congrArg Block.phase after, congrArg Block.hold after⟩

/-! ### A single round with the reference converter (R172, R215) -/

section Converter

variable {σ : System}

/-- The converter delivers a completion while it owes one, and the block takes it as it is (R170). -/
theorem System.Inv.exists_move_done (h : σ.Inv) (inFlight : σ.machine.block.running = true) (v : Data) :
    ∃ σ', σ.move (.done v) = some σ' ∧ σ'.Inv ∧ σ'.machine.block = (σ.machine.block.convDone v).1 := by
  have run : σ.move (.done v) = σ.perform (.convDone v) (σ.owed - 1) := if_neg (h.owed_ne_zero inFlight)
  rw [System.perform, exec_eq] at run
  exact ⟨_, run, h.move run, rfl⟩

/-- In place of a completion it may deliver an error, which takes the block to the fault (R163, R170). -/
theorem System.Inv.exists_move_error (h : σ.Inv) (inFlight : σ.machine.block.running = true) :
    ∃ σ', σ.move .error = some σ' ∧ σ'.machine.block = σ.machine.block.enterFault := by
  have run : σ.move .error = σ.perform .convErr 0 := if_neg (h.owed_ne_zero inFlight)
  rw [System.perform, exec_eq] at run
  exact ⟨_, run, h.move_error run⟩

/-- The completion that a single round awaits last ends it with its result ready (R112). -/
theorem System.Inv.exists_last_move_done (h : σ.Inv) (inFlight : σ.machine.block.running = true)
    (mode : σ.machine.block.cont = false) (last : σ.machine.block.phase = true) (v : Data) :
    ∃ σ', σ.move (.done v) = some σ' ∧ σ'.machine.readyO = true ∧ σ'.machine.runningO = false := by
  obtain ⟨σ', run, -, after⟩ := h.exists_move_done inFlight v
  rw [Block.convDone_of_single (h.block.ok_of_running inFlight) inFlight last mode] at after
  exact ⟨σ', run, congrArg Block.ready after, congrArg Block.running after⟩

end Converter

/-! ### Runs (R203, R217) -/

theorem core_run_add {k l : Nat} {s t : State} (h : Sys2Proof.core.run k s = .next t) :
    Sys2Proof.core.run (k + l) s = Sys2Proof.core.run l t := by
  induction k generalizing s with
  | zero =>
    cases h
    rw [Nat.zero_add]
  | succ k ih =>
    obtain ⟨m, first⟩ := step_total s
    rw [core_run_succ k first] at h
    rw [Nat.add_right_comm, core_run_succ (k + l) first, ih h]

@[simp] theorem stepCount_cons (x : Cycle Config.asb1) (cs : List (Cycle Config.asb1)) :
    stepCount (x :: cs) = x.steps + stepCount cs := List.sum_cons

/-- The steps of the cycles to come exhaust them (R217). -/
theorem core_run_stepCount {s : State} {cs : List (Cycle Config.asb1)} (hs : s.inputs = cs) :
    ∃ t, Sys2Proof.core.run (stepCount cs) s = .next t ∧ t.inputs = [] := by
  induction cs generalizing s with
  | nil => exact ⟨s, rfl, hs⟩
  | cons x rest ih =>
    obtain ⟨m, run, left, -⟩ := performsCycle hs
    rw [stepCount_cons, core_run_add run]
    exact ih left

/-- A run begins with a reset cycle, the sequence's own or the one given to it (R203, log entry 19). -/
theorem exists_beginWithReset (cs : List (Cycle Config.asb1)) :
    ∃ x rest, beginWithReset cs = x :: rest ∧ x.rst = true := by
  unfold beginWithReset
  split
  · exact ⟨_, _, rfl, rfl⟩
  · split
    · exact ⟨_, _, rfl, ‹_›⟩
    · exact ⟨_, _, rfl, rfl⟩

/-- The first step of a run answers zeros and, whatever the state before it, leads to one and the same state (R200, R203). -/
theorem exists_first_step (cs : List (Cycle Config.asb1)) :
    ∃ k t, runLength cs = k + 1 ∧ t.out = Outputs.zero ∧ ∀ s : State, step (s.startRun cs) = .next t := by
  obtain ⟨x, rest, begins, reset⟩ := exists_beginWithReset cs
  refine ⟨stepCount rest, { State.reset with inputs := rest }, ?_, rfl, fun s => step_of_reset begins reset⟩
  rw [runLength, begins, stepCount_cons, Cycle.steps, if_pos reset, Nat.add_comm]

/-! ### The statements -/

/-- Settles O9: whatever else the cycle presents, its step is the reset step. -/
theorem resetStepClearsEverything : Obligations.ResetStepClearsEverything :=
  fun _ _ _ presented reset =>
    ⟨_, step_of_reset presented reset, rfl, rfl, rfl, rfl, rfl, rfl, rfl, rfl, rfl, rfl, Memory.read_zero⟩

/-- Settles O47: the new round of the start takes the late completion for its sensor value. -/
theorem lateCompletionHazard : Obligations.LateCompletionHazard := by
  intro s i j late own ownRef ok ending start
  obtain ⟨t, ended, ok', atRest, outside⟩ := exec_ending_at_rest ok ending
  obtain ⟨m, started, ok'', inFlight, first, mode⟩ := exec_start_from_rest ok' atRest outside start
  obtain ⟨u, latched, pending, x, stored, sens, ref, y, third, single, continuous⟩ :=
    exec_three_completions ok'' inFlight first late own ownRef
  have dropped := exec_of_stepOp (.convDone late) (Block.convDone_of_dropped (.inr atRest) late)
  refine ⟨t, ended, ⟨_, dropped, rfl⟩, u, ?_, ?_, ?_, ?_, x, stored, sens, ref, y, third, ?_, ?_⟩
  · rw [execAll_cons_of_exec started, execAll_cons_of_exec latched, execAll_nil]
  · rw [pending]
    exact inFlight
  · rw [pending]
    rfl
  · rw [pending]
    rfl
  · rintro rfl
    exact single mode
  · rintro rfl
    exact continuous mode

/-- Settles O51: an error takes the block to the fault, and the completions it still awaits are those the converter still owes. -/
theorem singleRoundEnds : Obligations.SingleRoundEnds := by
  intro σ v w h inFlight mode
  refine ⟨?_, fun last => h.exists_last_move_done inFlight mode last w, fun first => ?_⟩
  · obtain ⟨σ', run, after⟩ := h.exists_move_error inFlight
    exact ⟨σ', run, congrArg Block.fault after, congrArg Block.running after⟩
  · obtain ⟨m, run, h', after⟩ := h.exists_move_done inFlight v
    rw [Block.convDone_of_first (h.block.ok_of_running inFlight) inFlight first] at after
    have inFlight' : m.machine.block.running = true := by rw [after]; exact inFlight
    have mode' : m.machine.block.cont = false := by rw [after]; exact mode
    have last : m.machine.block.phase = true := by rw [after]; rfl
    obtain ⟨σ', run', ends⟩ := h'.exists_last_move_done inFlight' mode' last w
    exact ⟨m, σ', run, run', ends⟩

/-- Settles O57: after the first step nothing depends on the state before it. -/
theorem runBeginsWithResetStep : Obligations.RunBeginsWithResetStep := by
  intro cs
  obtain ⟨k, t, long, zero, first⟩ := exists_first_step cs
  refine ⟨traceFrom_length _ _, ?_, core_run_stepCount rfl, fun s => ⟨?_, ?_⟩⟩
  · rw [trace, long, traceFrom_succ k (first _), List.head?_cons, zero]
  · rw [trace, long, traceFrom_succ k (first _), traceFrom_succ k (first _)]
  · rw [endState, long, core_run_succ k (first _), core_run_succ k (first _)]

/-- Settles O28: the answers of the reset block. -/
theorem readsStraightAfterReset : Obligations.ReadsStraightAfterReset := by
  intro s reset
  have answers (i : Instr) {out : Outputs Config.asb1} (h : (stepOp (Block.reset Config.asb1) i.toOp).2 = out) :
      ∃ t, exec i s = .next t ∧ t.out = out :=
    ⟨_, exec_eq i s, by rw [State.complete_out, reset]; exact h⟩
  refine ⟨?_, ?_, ?_⟩
  · rintro i (rfl | rfl | rfl)
    · exact answers .isRunning rfl
    · exact answers .isReady rfl
    · exact answers .rdStatus (congrArg Outputs.value (Block.status_reset _))
  · rintro idx i below (rfl | rfl)
    · exact answers (.rdSens idx) (Block.directRead_reset .sens below)
    · exact answers (.rdRef idx) (Block.directRead_reset .ref below)
  · rintro i (rfl | rfl)
    · exact answers .getSingle (congrArg CalibResult.outputs (Block.lastReading_reset _))
    · exact answers .getAvg (congrArg CalibResult.outputs (Block.averageReading_reset _))

end Sys2Proof.Machine
end
